-- ==== Sys2Proof/Word.lean ====
section
/-! DEFINITION. The machine's basic values (spec 00_scope.md R9, R11): words, bytes, Keccak lanes, register numbers. -/

namespace Sys2Proof

/-- A word: an unsigned integer in `[0, 2^256)` (R11, `WLEN` of R9). -/
abbrev Word := BitVec 256

/-- A byte: an unsigned integer in `[0, 256)` (R11). -/
abbrev Byte := BitVec 8

/-- A Keccak lane: a 64-bit unsigned integer (R161). -/
abbrev Lane := BitVec 64

/-- The number of a word register, `W0` to `W15` (R22, `NREG` of R9); all 16 values are legal (R92). -/
abbrev Reg := Fin 16

end Sys2Proof
end

