-- ==== Sys2Proof/Machine/Bytes.lean ====
section
/-! DEFINITION. The conversions between byte strings and integers (spec 00_scope.md R13, 20_memory.md R60). -/

namespace Sys2Proof.Machine

/-- `le2int`: the integer of a byte string, first byte least significant (R13). -/
def le2int : List Byte → Nat
  | [] => 0
  | b :: bs => b.toNat + 256 * le2int bs

/-- `be2int`: the integer of a byte string, first byte most significant (R13). -/
def be2int (bs : List Byte) : Nat := bs.foldl (fun acc b => acc * 256 + b.toNat) 0

/-- The `n` low bytes of `v`, least significant first; the inverse of `le2int` on strings of length `n`. -/
def int2le : Nat → Nat → List Byte
  | 0, _ => []
  | n + 1, v => BitVec.ofNat 8 v :: int2le n (v / 256)

/-- `int2be32`: the 32-byte string `s` with `be2int s = v`, for `v < 2^256` (R13). -/
def int2be32 (v : Nat) : List Byte := (int2le 32 v).reverse

end Sys2Proof.Machine
end

