-- ==== Sys2Proof/Machine/Keccak.lean ====
section
/-! DEFINITION. `H256`, the hash of the constant generator: Keccak-256 with the original padding (spec 42_keccak256.md R160 to R167). -/

namespace Sys2Proof.Machine.Keccak

/-- The 25 lanes, lane `A[x][y]` at position `x + 5 * y` (R161). -/
abbrev Lanes := List Lane

/-- `A[x][y]`, index arithmetic modulo 5 (R161, R164). -/
def lane (a : Lanes) (x y : Nat) : Lane := a.getD (x % 5 + 5 * (y % 5)) 0

/-- The lanes given by a rule for each `x` and `y` (R161). -/
def ofLanes (f : Nat → Nat → Lane) : Lanes := (List.range 25).map fun i => f (i % 5) (i / 5)

/-- The all-zero initial state (R161). -/
def zero : Lanes := List.replicate 25 0

/-- `rol(v, n)` rotates `v` left by `n` bits, `n < 64` (R164). -/
def rol (v : Lane) (n : Nat) : Lane := (v <<< n) ||| (v >>> (64 - n))

/-- The rotation offsets `ROT[x][y]` at position `x + 5 * y` (R165). -/
def rotations : List Nat :=
  [0, 1, 62, 28, 27,
   36, 44, 6, 55, 20,
   3, 10, 43, 25, 39,
   41, 45, 15, 21, 8,
   18, 2, 61, 56, 14]

/-- The table of R166 line by line: line `i` has `RC[i]` and `RC[i + 12]`. -/
def roundConstantLines : List (Lane × Lane) :=
  [ (0x0000000000000001, 0x000000008000808B), (0x0000000000008082, 0x800000000000008B), (0x800000000000808A, 0x8000000000008089),
    (0x8000000080008000, 0x8000000000008003), (0x000000000000808B, 0x8000000000008002), (0x0000000080000001, 0x8000000000000080),
    (0x8000000080008081, 0x000000000000800A), (0x8000000000008009, 0x800000008000000A), (0x000000000000008A, 0x8000000080008081),
    (0x0000000000000088, 0x8000000000008080), (0x0000000080008009, 0x0000000080000001), (0x000000008000000A, 0x8000000080008008) ]

/-- The round constants `RC[0..23]`: the left column of the table, then the right one (R166). -/
def roundConstants : List Lane := roundConstantLines.map Prod.fst ++ roundConstantLines.map Prod.snd

/-- `C[x]` of step theta (R164). -/
def columnParity (a : Lanes) (x : Nat) : Lane :=
  lane a x 0 ^^^ lane a x 1 ^^^ lane a x 2 ^^^ lane a x 3 ^^^ lane a x 4

/-- Step theta: each lane takes in `D[x]`, made from the neighbouring columns' parities (R164). -/
def theta (a : Lanes) : Lanes :=
  let c := (List.range 5).map (columnParity a)
  let d := (List.range 5).map fun x => c.getD ((x + 4) % 5) 0 ^^^ rol (c.getD ((x + 1) % 5) 0) 1
  ofLanes fun x y => lane a x y ^^^ d.getD x 0

/-- Steps rho and pi: `B[y][(2x + 3y) mod 5] = rol(A[x][y], ROT[x][y])` (R164). The lane that lands at `B[u][v]` comes from
`y = u` and `x = (u + 3v) mod 5`, since `2(u + 3v) + 3u = 5u + 6v = v` modulo 5. -/
def rhoPi (a : Lanes) : Lanes :=
  ofLanes fun u v =>
    let x := (u + 3 * v) % 5
    rol (lane a x u) (rotations.getD (x + 5 * u) 0)

/-- Step chi (R164). -/
def chi (b : Lanes) : Lanes :=
  ofLanes fun x y => lane b x y ^^^ (~~~ lane b (x + 1) y &&& lane b (x + 2) y)

/-- Step iota: the round constant enters lane `A[0][0]` (R164). -/
def iota (a : Lanes) (rc : Lane) : Lanes := a.set 0 (lane a 0 0 ^^^ rc)

/-- One round with its round constant (R164). -/
def keccakRound (a : Lanes) (rc : Lane) : Lanes := iota (chi (rhoPi (theta a))) rc

/-- `KeccakF`: the 24 rounds in order (R164). -/
def keccakF (a : Lanes) : Lanes := roundConstants.foldl keccakRound a

/-- The number of message bytes a block holds: the rate, 1088 bits (R160). -/
def rate : Nat := 136

/-- The padded message (R162): `q = 136 - (len mod 136)` bytes are added, `0x81` when `q = 1`, otherwise `0x01`, zeros, `0x80`. -/
def padded (m : List Byte) : List Byte :=
  let q := rate - m.length % rate
  if q = 1 then m ++ [0x81] else m ++ [0x01] ++ List.replicate (q - 2) 0x00 ++ [0x80]

/-- Absorb one 136-byte block: lanes 0 to 16 take in the little-endian value of their eight bytes, then `KeccakF` (R163). -/
def absorb (a : Lanes) (block : List Byte) : Lanes :=
  keccakF <| (List.range 25).map fun i =>
    if i < 17 then a.getD i 0 ^^^ BitVec.ofNat 64 (le2int ((block.drop (8 * i)).take 8)) else a.getD i 0

/-- The state after all blocks of the padded message, in order (R163). -/
def absorbAll (m : List Byte) : Lanes :=
  let p := padded m
  (List.range (p.length / rate)).foldl (fun a b => absorb a ((p.drop (rate * b)).take rate)) zero

/-- The digest: the first four lanes, each least significant byte first (R167). -/
def squeeze (a : Lanes) : List Byte := (a.take 4).flatMap fun v => int2le 8 v.toNat

/-- `H256(M)`: the 32-byte digest of a byte string (R160). -/
def h256 (m : List Byte) : List Byte := squeeze (absorbAll m)

end Sys2Proof.Machine.Keccak
end

