-- ==== Sys2Proof/Config.lean ====
section
/-! DEFINITION. The parameters of this instance of the MiMC7 core, at the values spec 00_scope.md R8 and R9 give. -/

namespace Sys2Proof.Config

/-- The modulus R, hardwired (R8). -/
def modulus : Nat := 21888242871839275222246405745257275088548364400416034343698204186575808495617

/-- `EM_DEPTH`: words of the element memory (R9). -/
def emDepth : Nat := 256

/-- `BM_DEPTH`: bytes of the byte memory (R9). -/
def bmDepth : Nat := 4096

/-- `SM_DEPTH`: bytes of the seed memory (R9). -/
def smDepth : Nat := 128

/-- `NR_MAX`: words of the constants table, the largest legal round count (R9). -/
def nrMax : Nat := 256

/-- `NR_DEFAULT`: the reset value of NROUNDS (R9). -/
def nrDefault : Nat := 91

/-- The reset value of SEEDLEN: the length of `SEED_DEFAULT` (R9, R47). -/
def seedLenDefault : Nat := 4

/-- `CHUNK`: bytes per packed field element (R9). -/
def chunk : Nat := 31

/-- The constant value of the ID register: ASCII "MC7", then the version byte 1 (R2, R31). -/
def idValue : Nat := 0x4D433701

end Sys2Proof.Config
end

