-- ==== Sys2Proof/Machine/Field.lean ====
section
/-! DEFINITION. The field functions over the integers modulo R (spec 00_scope.md R16, 40_field_arithmetic.md R120). -/

namespace Sys2Proof.Machine

/-- `fadd(a, b) = (a + b) mod R` (R16). -/
def fadd (a b : Nat) : Nat := (a + b) % Config.modulus

/-- `fmul(a, b) = (a * b) mod R`: the full product, then the exact remainder (R16, R120). -/
def fmul (a b : Nat) : Nat := (a * b) % Config.modulus

/-- `fsqr(a) = (a * a) mod R` (R16). -/
def fsqr (a : Nat) : Nat := (a * a) % Config.modulus

/-- `fred(v) = v mod R`, for any word (R16). -/
def fred (v : Nat) : Nat := v % Config.modulus

/-- `pow7(t)`, by the schedule of R16: `t2`, `t4`, `t6`, `t7`, each reduced. -/
def pow7 (t : Nat) : Nat :=
  let t2 := fmul t t
  let t4 := fmul t2 t2
  let t6 := fmul t4 t2
  fmul t6 t

/-- A word in the field: `0 <= v < R` (R11, R190). The test is the full comparison (R26). -/
def canonical (v : Word) : Bool := decide (v.toNat < Config.modulus)

/-- An integer as a word; every result of the field functions is below R and loses nothing (R120). -/
def toWord (v : Nat) : Word := BitVec.ofNat 256 v

end Sys2Proof.Machine
end

