-- ==== Sys2Proof/Machine/State.lean ====
section
/-! DEFINITION. The machine's state as plain data (spec 10_state.md R20 to R50) with the port it is driven through
(spec 70_reset_and_hazards.md R316 to R318), and its reset value (R50, R310). -/

namespace Sys2Proof.Machine

/-- A private memory (R44): the locations whose value differs from what an unlisted location reads as, addresses strictly
rising. `Mem 8` is a list of `Host.Cell`; the element memory and the constants table hold 256-bit units (R63). -/
abbrev Mem (n : Nat) := List (Nat × BitVec n)

/-- A command on the port: the command word and the write data that comes with it (R90, R316). -/
structure Command where
  word : BitVec 32
  wdata : Word
  deriving DecidableEq, Repr

/-- The response to a command (R316): `status` is 0 or the cause code (R271), `rdata` the read data. -/
structure Response where
  status : BitVec 4
  rdata : Word
  deriving DecidableEq, Repr

/-- What EM and BM hold after a reset (R50: arbitrary, then stable): location `a` holds entry `a` of the list. A location
past the end of a list holds what an unlisted location reads as; entries past the memory's depth are dropped. It is an
input of reset, not a choice of the block (93_implementation_defined.md U1). -/
structure Image where
  em : List Word
  bm : List Byte
  deriving DecidableEq, Repr

/-- The input pins sampled at one edge (R316). `rst` is `some` when the pin is 1, with what the unspecified memories then
hold; `cmd` is `some` when `cmd_valid` is 1; `rspReady` is `rsp_ready`. -/
structure HostPins where
  rst : Option Image
  cmd : Option Command
  rspReady : Bool
  deriving DecidableEq, Repr

/-- Where the block is in the protocol of R318: idle; a command accepted and not yet answered (R49); a response presented
and not yet transferred. The accepted command and the response are held here and survive no longer (R48, R49). -/
inductive Port where
  | idle
  | inFlight (c : Command)
  | answering (r : Response)
  deriving DecidableEq, Repr

/-- What the host has on the command pins while `cmd_ready` is 0, for its obligation to hold the command stable or withdraw
it (R318): nothing, one command held stable, or a command changed without being withdrawn. -/
inductive Offer where
  | nothing
  | held (c : Command)
  | changed
  deriving DecidableEq, Repr

/-- The state: the tuple of R20; the port; and the host's side of it. -/
structure State where
  /-- `W[0..15]`, the word registers (R22) -/
  w : Vector Word 16
  /-- `EM`, the element memory (R45) -/
  em : Mem 256
  /-- `BM`, the byte memory (R46) -/
  bm : Mem 8
  /-- `SM`, the seed memory (R47) -/
  sm : Mem 8
  /-- `CT`, the constants table (R42) -/
  ct : Mem 256
  /-- `CTV`: the constants table is valid (R20, R32) -/
  ctv : Bool
  /-- `CTN`: the number of rounds of the valid table (R36) -/
  ctn : BitVec 9
  /-- `NROUNDS`: the round count for the next GENC (R34) -/
  nrounds : BitVec 16
  /-- `SEEDLEN`: the seed length for the next GENC (R35) -/
  seedlen : BitVec 8
  /-- `EIE`, CTRL bit 0: the error-interrupt enable (R33) -/
  eie : Bool
  /-- `ECAUSE`: the cause code of the most recent fault (R37) -/
  ecause : BitVec 4
  /-- `EINFO`: the information word of the most recent fault (R38) -/
  einfo : BitVec 16
  /-- `ESTICKY`: one bit per cause raised since the last clear (R39) -/
  esticky : BitVec 16
  /-- the command or response in the block (R49, R317, R318) -/
  port : Port
  /-- the host's unaccepted command, for the handshake obligation of R318 -/
  offer : Offer
  /-- the input pins of the coming edges, next first; the model's own field for the environment (R7) -/
  script : List HostPins
  /-- the responses transferred to the host, oldest first; the model's own field for the environment (R318) -/
  taken : List Response
  deriving DecidableEq, Repr

/-- The reasons for which the machine stops. There is none: a fault of this block is an answer and a record, after which it
is ready for the next command (R276), and nothing in the spec makes it stop answering (93_implementation_defined.md, end of
section 2). Safe: there is nothing to raise. -/
inductive Fault where
  deriving DecidableEq, Repr

/-- The reasons for which the model gives a step no meaning. -/
inductive Refusal where
  /-- Raised by an arm of `exec` for a command that has no meaning yet; no arm raises it now. Safe: the run ends. -/
  | notModelled (mnemonic : String)
  /-- Raised by the port when the host has a command accepted that it changed while `cmd_valid` was 1 and `cmd_ready` 0:
  the spec gives such a run no meaning (R321 item 1; 93_implementation_defined.md U6, treatment "refuse"). Safe: the run ends. -/
  | handshakeBreach
  deriving DecidableEq, Repr

/-- What a command, or a step, answers. -/
abbrev Outcome := Host.Outcome State Fault Refusal

/-- The machine right after reset (R50, R310): no command in flight, nothing written to any memory since. EM and BM, which
the spec leaves unspecified, are as an unlisted location reads (assumption log 1); `Machine/Port.lean` gives the reset with
any other contents. The lists of the host's side are empty: nothing has been driven yet (assumption log 4). -/
def State.reset : State where
  w := Vector.replicate 16 0
  em := []
  bm := []
  sm := []
  ct := []
  ctv := false
  ctn := 0
  nrounds := BitVec.ofNat 16 Config.nrDefault
  seedlen := BitVec.ofNat 8 Config.seedLenDefault
  eie := false
  ecause := 0
  einfo := 0
  esticky := 0
  port := .idle
  offer := .nothing
  script := []
  taken := []

end Sys2Proof.Machine
end

