-- ==== Sys2Proof/Machine/Ops.lean ====
section
/-! DEFINITION. The named operations over memory, registers and the response: reads and writes (spec 00_scope.md R15,
20_memory.md R64 to R68), the end of a command (R276), taking a fault (60_exceptions.md R271, R272, R276) and clearing the
record (46_control.md R252). -/

namespace Sys2Proof.Machine

/-! ## Memories -/

/-- What an unlisted location of EM or CT reads as. The spec leaves both unspecified after reset (R50): the value for EM is a
DESIGN CHOICE, unsafe (assumption log 1); the one for CT can never be read (R42, assumption log 2). -/
def wordUnlisted (_ : Nat) : Word := 0

/-- What an unlisted location of BM reads as. Unspecified after reset (R50): DESIGN CHOICE, unsafe (assumption log 1). -/
def byteUnlisted (_ : Nat) : Byte := 0

/-- What an unlisted location of SM reads as: its reset contents, the default seed "mimc" and zeros (R47). -/
def seedUnlisted (a : Nat) : Byte :=
  match a with
  | 0 => 0x6D
  | 1 => 0x69
  | 2 => 0x6D
  | 3 => 0x63
  | _ => 0x00

/-- The unit at address `a`; an unlisted location reads as `d` says. Reading has no side effect (R27, R68). -/
def Mem.read {n : Nat} (d : Nat → BitVec n) : Mem n → Nat → BitVec n
  | [], a => d a
  | c :: m, a => if a = c.1 then c.2 else Mem.read d m a

/-- List the value `v` at address `a`, in address order. -/
def Mem.insert {n : Nat} : Mem n → Nat → BitVec n → Mem n
  | [], a, v => [(a, v)]
  | c :: m, a, v => if a < c.1 then (a, v) :: c :: m else if a = c.1 then (a, v) :: m else c :: Mem.insert m a v

/-- Take the address `a` off the list. -/
def Mem.erase {n : Nat} (m : Mem n) (a : Nat) : Mem n := m.filter fun c => decide (c.1 ≠ a)

/-- Write the unit at address `a`, keeping the canonical form: the value an unlisted location reads as is not listed. -/
def Mem.write {n : Nat} (d : Nat → BitVec n) (m : Mem n) (a : Nat) (v : BitVec n) : Mem n :=
  if v = d a then m.erase a else m.insert a v

/-- Write consecutive units from address `a` on, in ascending order (PACK, GENC: R66). -/
def Mem.writeFrom {n : Nat} (d : Nat → BitVec n) (m : Mem n) (a : Nat) : List (BitVec n) → Mem n
  | [] => m
  | v :: vs => Mem.writeFrom d (m.write d a v) (a + 1) vs

/-- A memory of the given depth with the listed values at 0, 1, ...; values past the depth are dropped. -/
def Mem.ofValues {n : Nat} (d : Nat → BitVec n) (depth : Nat) (vs : List (BitVec n)) : Mem n :=
  Mem.writeFrom d [] 0 (vs.take depth)

/-- The canonical form of a memory of the given depth: addresses strictly rising and inside the memory, and no entry equal
to what an unlisted location reads as. -/
abbrev Mem.wf {n : Nat} (d : Nat → BitVec n) (depth : Nat) (m : Mem n) : Prop :=
  (m.map Prod.fst).Pairwise (· < ·) ∧ ∀ c ∈ m, c.1 < depth ∧ c.2 ≠ d c.1

/-- `EM[a]` (R15). -/
def State.readEm (s : State) (a : Nat) : Word := Mem.read wordUnlisted s.em a

/-- `EM[a] <- v` (R15). -/
def State.writeEm (s : State) (a : Nat) (v : Word) : State := { s with em := s.em.write wordUnlisted a v }

/-- `EM[0] <- vs[0]`, `EM[1] <- vs[1]`, ...: one step of PACK (R201, R67). -/
def State.writeEmAll (s : State) (vs : List Word) : State := { s with em := s.em.writeFrom wordUnlisted 0 vs }

/-- `BM[a]` (R15). -/
def State.readBm (s : State) (a : Nat) : Byte := Mem.read byteUnlisted s.bm a

/-- `BM[a] <- b` (R15). -/
def State.writeBm (s : State) (a : Nat) (b : Byte) : State := { s with bm := s.bm.write byteUnlisted a b }

/-- `SM[a]` (R15). -/
def State.readSm (s : State) (a : Nat) : Byte := Mem.read seedUnlisted s.sm a

/-- `SM[a] <- b` (R15). -/
def State.writeSm (s : State) (a : Nat) (b : Byte) : State := { s with sm := s.sm.write seedUnlisted a b }

/-- `CT[i]` (R15, R42). -/
def State.readCt (s : State) (i : Nat) : Word := Mem.read wordUnlisted s.ct i

/-- Replace the whole constants table by `c`: `CT[i] <- c[i]`, `CTN <- n`, `CTV <- 1`, as one step (R141, R43, R67). The
entries from `n` on become unspecified and unreadable; here they become unlisted (R42, assumption log 2). -/
def State.setTable (s : State) (c : List Word) : State :=
  { s with ct := Mem.writeFrom wordUnlisted [] 0 c, ctn := BitVec.ofNat 9 c.length, ctv := true }

/-! ## Registers -/

/-- `W[i]` (R15, R22): no register is hardwired. -/
def State.reg (s : State) (r : Reg) : Word := s.w[r.val]

/-- `W[i] <- v` (R15, R22). -/
def State.setReg (s : State) (r : Reg) (v : Word) : State := { s with w := s.w.set r.val v r.isLt }

/-- The write data that came with the command in flight (R15, R90). With no command in flight nothing reads it
(assumption log 7). -/
def State.wdata (s : State) : Word :=
  match s.port with
  | .inFlight c => c.wdata
  | .idle => 0
  | .answering _ => 0

/-! ## The end of a command -/

/-- The response is presented (R318): the command is no longer in flight. -/
def State.answer (s : State) (status : BitVec 4) (rdata : Word) : State := { s with port := .answering ⟨status, rdata⟩ }

/-- `respond(v)`: the command completes with status 0 and read data `v` (R15); the fault record stays as it was (R276). -/
def respond (s : State) (v : Word) : Outcome := .next (s.answer 0 v)

/-- The causes of a fault (R271). -/
inductive Cause where
  | oof | illcmd | notready | badcfg | badarg | badcsr
  deriving DecidableEq, Repr

/-- The cause code: the value of `rsp_status` and of ECAUSE, and the index of the ESTICKY bit (R271). -/
def Cause.code : Cause → Nat
  | .oof => 1
  | .illcmd => 2
  | .notready => 3
  | .badcfg => 4
  | .badarg => 5
  | .badcsr => 6

/-- Taking a fault, as one step (R276): the record is written, the response carries the cause and no data, and nothing else
changes: no mode, no mask, no jump. -/
def State.takeFault (s : State) (c : Cause) (info : Nat) : State :=
  { s with
    ecause := BitVec.ofNat 4 c.code
    einfo := BitVec.ofNat 16 info
    esticky := s.esticky ||| (1 <<< c.code)
    port := .answering ⟨BitVec.ofNat 4 c.code, 0⟩ }

/-- `raise <Fault>(info)`: the command ends here with the fault (R15, R276). -/
def raise (s : State) (c : Cause) (info : Nat) : Outcome := .next (s.takeFault c info)

/-- The acknowledgement of a fault, in place of a return (R278, R252): the whole record is cleared. -/
def State.clearFaults (s : State) : State := { s with ecause := 0, einfo := 0, esticky := 0 }

end Sys2Proof.Machine
end

