-- ==== Sys2Proof/Machine/Operands.lean ====
section
/-! DEFINITION. The operand forms with the checks their use makes, each check before any write (spec 00_scope.md R15): a register as
a field element, the elements EM[0..n-1], the bytes BM[0..len-1], the constants table, and the index and length limits
(44_sponge_hash.md R190, R191; 60_exceptions.md R271, R272; 20_memory.md R65). -/

namespace Sys2Proof.Machine

/-- A register consumed as a field element: OOF with `0x8000 + i` when it is out of field (R191, R272). -/
def withField (s : State) (r : Reg) (k : Nat → Outcome) : Outcome :=
  if canonical (s.reg r) then k (s.reg r).toNat else raise s .oof (0x8000 + r.val)

/-- The valid constants table `CT[0..CTN-1]`, in order (R42). -/
def State.table (s : State) : List Nat := (List.range s.ctn.toNat).map fun i => (s.readCt i).toNat

/-- The constants table as an operand: NOTREADY when it is not valid (R271). -/
def withTable (s : State) (k : List Nat → Outcome) : Outcome :=
  if s.ctv then k s.table else raise s .notready 0

/-- An index or length limited by its memory: BADARG with the immediate when the condition fails (R65, R272). -/
def withArg (s : State) (imm : Nat) (legal : Bool) (k : Outcome) : Outcome :=
  if legal then k else raise s .badarg imm

/-- The elements `EM[0..n-1]`, in order (R45). -/
def State.elements (s : State) (n : Nat) : List Nat := (List.range n).map fun j => (s.readEm j).toNat

/-- The index of the first out-of-field element among `EM[0..n-1]`, if there is one (R191). -/
def State.firstOutOfField (s : State) (n : Nat) : Option Nat := (List.range n).find? fun j => !canonical (s.readEm j)

/-- The sequence `EM[0..n-1]` consumed as field elements: the whole sequence is validated first, and OOF carries the index of
the first offender (R191, R193). -/
def withElements (s : State) (n : Nat) (k : List Nat → Outcome) : Outcome :=
  match s.firstOutOfField n with
  | some j => raise s .oof j
  | none => k (s.elements n)

/-- The bytes `BM[0..len-1]`, in order (R46). -/
def State.bytes (s : State) (len : Nat) : List Byte := (List.range len).map s.readBm

/-- The seed `SM[0..len-1]`, as stored (R47, R143). -/
def State.seed (s : State) (len : Nat) : List Byte := (List.range len).map s.readSm

end Sys2Proof.Machine
end

