-- ==== Sys2Proof/Machine/ConstantGenerator.lean ====
section
/-! DEFINITION. The constant generator commands GENC and RDC (spec 41_constant_generator.md). -/

namespace Sys2Proof.Machine

/-- The constants `c[i]`, `c[i+1]`, ... that follow the raw accumulator `d`: each round hashes the 32 raw bytes first and
reduces the new accumulator second (R140, R145; 90_conflicts.md C1). -/
def constantsAfter : Nat → List Byte → List Nat
  | 0, _ => []
  | k + 1, d => fred (be2int (Keccak.h256 d)) :: constantsAfter k (Keccak.h256 d)

/-- `genconst(seed, n)`, `n >= 1`: `c[0] = 0`, then `n - 1` constants from the hashed seed (R140). -/
def genconst (seed : List Byte) (n : Nat) : List Nat := 0 :: constantsAfter (n - 1) (Keccak.h256 seed)

/-- GENC: the round count is checked before the seed length; on success the whole table is replaced (R141). -/
def execGenc (s : State) : Outcome :=
  if s.nrounds.toNat = 0 ∨ s.nrounds.toNat > Config.nrMax then raise s .badcfg 1
  else if s.seedlen.toNat > Config.smDepth then raise s .badcfg 2
  else respond (s.setTable ((genconst (s.seed s.seedlen.toNat) s.nrounds.toNat).map toWord)) 0

/-- RDC: NOTREADY before BADARG (R146). -/
def execRdc (imm : Nat) (s : State) : Outcome :=
  withTable s fun _ =>
  withArg s imm (decide (imm < s.ctn.toNat)) <|
  respond s (s.readCt imm)

end Sys2Proof.Machine
end

