-- ==== Sys2Proof/Machine/Flags.lean ====
section
/-! DEFINITION. The block has no flags, condition codes or predicates (spec 10_state.md R29). What it has in their place are
the bits computed from the fault record: STATUS.ERR (R32) and the `irq` output (60_exceptions.md R286). -/

namespace Sys2Proof.Machine

/-- STATUS.ERR: a fault is recorded and not yet cleared; a computed bit, not state (R32). -/
def State.err (s : State) : Bool := decide (s.esticky ≠ 0)

/-- STATUS, read as `CTV + 2 * ERR`, the other bits 0 (R32, R250). -/
def State.status (s : State) : Nat := s.ctv.toNat + 2 * s.err.toNat

/-- The level of the `irq` output, at every instant a function of the state (R33, R286, R49). -/
def State.irq (s : State) : Bool := s.eie && s.err

end Sys2Proof.Machine
end

