-- ==== Sys2Proof/Machine/Control.lean ====
section
/-! DEFINITION. The control registers and the commands CSRR, CSRW, CLRE (spec 10_state.md R30 to R41, 46_control.md). -/

namespace Sys2Proof.Machine

/-- The ten control registers; there is no other (R30, R41). -/
inductive Csr where
  | id | status | ctrl | nrounds | seedlen | ctn | ecause | einfo | esticky | modulus
  deriving DecidableEq, Repr

/-- The control register with a number, if there is one (R30). -/
def csrOf (number : Nat) : Option Csr :=
  match number with
  | 0x000 => some .id
  | 0x001 => some .status
  | 0x002 => some .ctrl
  | 0x003 => some .nrounds
  | 0x004 => some .seedlen
  | 0x005 => some .ctn
  | 0x006 => some .ecause
  | 0x007 => some .einfo
  | 0x008 => some .esticky
  | 0x009 => some .modulus
  | _ => none

/-- The value a control register reads as, reserved bits 0 (R250, R30). -/
def State.readCsr (s : State) : Csr → Nat
  | .id => Config.idValue
  | .status => s.status
  | .ctrl => s.eie.toNat
  | .nrounds => s.nrounds.toNat
  | .seedlen => s.seedlen.toNat
  | .ctn => s.ctn.toNat
  | .ecause => s.ecause.toNat
  | .einfo => s.einfo.toNat
  | .esticky => s.esticky.toNat
  | .modulus => Config.modulus

/-- The state with a control register written from the low bits of the write data; `none` for a read-only register (R251). -/
def State.writeCsr (s : State) (v : Word) : Csr → Option State
  | .ctrl => some { s with eie := v.getLsbD 0 }
  | .nrounds => some { s with nrounds := v.setWidth 16 }
  | .seedlen => some { s with seedlen := v.setWidth 8 }
  | .id | .status | .ctn | .ecause | .einfo | .esticky | .modulus => none

/-- CSRR: BADCSR for a number that names no register (R250). -/
def execCsrr (imm : Nat) (s : State) : Outcome :=
  match csrOf imm with
  | some c => respond s (toWord (s.readCsr c))
  | none => raise s .badcsr imm

/-- CSRW: BADCSR for a number that names no register and for a read-only one (R251). -/
def execCsrw (imm : Nat) (s : State) : Outcome :=
  match (csrOf imm).bind (s.writeCsr s.wdata) with
  | some t => respond t 0
  | none => raise s .badcsr imm

/-- CLRE (R252). -/
def execClre (s : State) : Outcome := respond s.clearFaults 0

end Sys2Proof.Machine
end

