-- ==== Sys2Proof/Machine/DataMovement.lean ====
section
/-! DEFINITION. The data movement commands LDW, RDW, WRE, RDE, WRB, RDB, WRS, RDS, LDE, STE (spec 45_data_movement.md): the address
is the immediate, no datum is range-checked. -/

namespace Sys2Proof.Machine

/-- LDW (R220). -/
def execLdw (rd : Reg) (s : State) : Outcome := respond (s.setReg rd s.wdata) 0

/-- RDW (R221). -/
def execRdw (ra : Reg) (s : State) : Outcome := respond s (s.reg ra)

/-- WRE (R222). -/
def execWre (imm : Nat) (s : State) : Outcome :=
  withArg s imm (decide (imm < Config.emDepth)) <|
  respond (s.writeEm imm s.wdata) 0

/-- RDE (R223). -/
def execRde (imm : Nat) (s : State) : Outcome :=
  withArg s imm (decide (imm < Config.emDepth)) <|
  respond s (s.readEm imm)

/-- WRB: the byte is `wdata[7:0]`; every 12-bit index is inside the memory (R224, R62). -/
def execWrb (imm : Nat) (s : State) : Outcome :=
  withArg s imm (decide (imm < Config.bmDepth)) <|
  respond (s.writeBm imm (s.wdata.setWidth 8)) 0

/-- RDB: the byte, zero-extended (R225). -/
def execRdb (imm : Nat) (s : State) : Outcome :=
  withArg s imm (decide (imm < Config.bmDepth)) <|
  respond s ((s.readBm imm).setWidth 256)

/-- WRS: neither SEEDLEN nor the table changes (R226). -/
def execWrs (imm : Nat) (s : State) : Outcome :=
  withArg s imm (decide (imm < Config.smDepth)) <|
  respond (s.writeSm imm (s.wdata.setWidth 8)) 0

/-- RDS: the byte, zero-extended (R227). -/
def execRds (imm : Nat) (s : State) : Outcome :=
  withArg s imm (decide (imm < Config.smDepth)) <|
  respond s ((s.readSm imm).setWidth 256)

/-- LDE (R228). -/
def execLde (rd : Reg) (imm : Nat) (s : State) : Outcome :=
  withArg s imm (decide (imm < Config.emDepth)) <|
  respond (s.setReg rd (s.readEm imm)) 0

/-- STE (R229). -/
def execSte (ra : Reg) (imm : Nat) (s : State) : Outcome :=
  withArg s imm (decide (imm < Config.emDepth)) <|
  respond (s.writeEm imm (s.reg ra)) 0

end Sys2Proof.Machine
end

