-- ==== Sys2Proof/Machine/FieldArithmetic.lean ====
section
/-! DEFINITION. The field arithmetic commands FADD, FMUL, FSQR, FRED, FEQ (spec 40_field_arithmetic.md). -/

namespace Sys2Proof.Machine

/-- FADD (R121). -/
def execFadd (rd ra rb : Reg) (s : State) : Outcome :=
  withField s ra fun a =>
  withField s rb fun b =>
  respond (s.setReg rd (toWord (fadd a b))) 0

/-- FMUL (R122). -/
def execFmul (rd ra rb : Reg) (s : State) : Outcome :=
  withField s ra fun a =>
  withField s rb fun b =>
  respond (s.setReg rd (toWord (fmul a b))) 0

/-- FSQR (R123). -/
def execFsqr (rd ra : Reg) (s : State) : Outcome :=
  withField s ra fun a =>
  respond (s.setReg rd (toWord (fsqr a))) 0

/-- FRED: the source is any word (R124). -/
def execFred (rd ra : Reg) (s : State) : Outcome :=
  respond (s.setReg rd (toWord (fred (s.reg ra).toNat))) 0

/-- FEQ: the answer is the read data, no state is written (R125, R29). -/
def execFeq (ra rb : Reg) (s : State) : Outcome :=
  withField s ra fun a =>
  withField s rb fun b =>
  respond s (if a = b then 1 else 0)

end Sys2Proof.Machine
end

