-- ==== Sys2Proof/Machine/RoundPermutation.lean ====
section
/-! DEFINITION. The round permutation and the command PERM (spec 43_round_permutation.md). -/

namespace Sys2Proof.Machine

/-- The rounds after round 0: `t = h + k + c[i]`, `h = round(t)`, one for each constant (R181, R182). -/
def laterRounds (k : Nat) : List Nat → Nat → Nat
  | [], h => h
  | c :: cs, h => laterRounds k cs (pow7 (fadd (fadd h k) c))

/-- `permute(x, k, c, n)` with `n` the length of `c`: round 0 adds no constant, so `c[0]` is not read; the key is added once
more at the end (R182). -/
def permute (x k : Nat) (c : List Nat) : Nat := fadd (laterRounds k c.tail (pow7 (fadd x k))) k

/-- PERM: NOTREADY before the operands, `x` before `k`; the rounds are those of the valid table, not NROUNDS (R180, R34). -/
def execPerm (rd ra rb : Reg) (s : State) : Outcome :=
  withTable s fun c =>
  withField s ra fun x =>
  withField s rb fun k =>
  respond (s.setReg rd (toWord (permute x k c))) 0

end Sys2Proof.Machine
end

