-- ==== Sys2Proof/Machine/SpongeHash.lean ====
section
/-! DEFINITION. The chaining hash, the byte packer and the commands HASHK, HASHZ, PACK, HASHB (spec 44_sponge_hash.md). -/

namespace Sys2Proof.Machine

/-- `multihash(e, key, c, m)`: the running `r` is the permutation's key and a summand (R192). -/
def multihash (e : List Nat) (key : Nat) (c : List Nat) : Nat :=
  e.foldl (fun r ej => fadd (fadd r ej) (permute ej r c)) key

/-- The number of chunks of `len` bytes, the last perhaps partial: `ceil(len / 31)` (R200, R201). -/
def chunkCount (len : Nat) : Nat := (len + 30) / Config.chunk

/-- `pack(s)`: consecutive 31-byte chunks, each little-endian (R200). -/
def packBytes (s : List Byte) : List Nat :=
  (List.range (chunkCount s.length)).map fun j => le2int ((s.drop (Config.chunk * j)).take Config.chunk)

/-- HASHK: NOTREADY, then the length, then the key, then the elements (R193, R274). -/
def execHashk (rd ra : Reg) (imm : Nat) (s : State) : Outcome :=
  withTable s fun c =>
  withArg s imm (decide (imm ≤ Config.emDepth)) <|
  withField s ra fun key =>
  withElements s imm fun e =>
  respond (s.setReg rd (toWord (multihash e key c))) 0

/-- HASHZ: the initial key is zero (R194). -/
def execHashz (rd : Reg) (imm : Nat) (s : State) : Outcome :=
  withTable s fun c =>
  withArg s imm (decide (imm ≤ Config.emDepth)) <|
  withElements s imm fun e =>
  respond (s.setReg rd (toWord (multihash e 0 c))) 0

/-- PACK: it needs no table and answers the number of words written (R201). -/
def execPack (imm : Nat) (s : State) : Outcome :=
  respond (s.writeEmAll ((packBytes (s.bytes imm)).map toWord)) (toWord (chunkCount imm))

/-- HASHB: the packed words stay internal, EM is not written (R202). -/
def execHashb (rd : Reg) (imm : Nat) (s : State) : Outcome :=
  withTable s fun c =>
  respond (s.setReg rd (toWord (multihash (packBytes (s.bytes imm)) 0 c))) 0

end Sys2Proof.Machine
end

