-- ==== Sys2Proof/Syntax.lean ====
section
/-! DEFINITION. The command set, MC7 version 1 (spec 30_encoding.md R93): one constructor per row of spec/opcode_table.json. -/

namespace Sys2Proof

/-- A command. The fields are those the command's format uses (R91): `rd`, `ra`, `rb` are register numbers and
`imm` is the unsigned immediate, a plain number that `Instr.wellFormed` bounds by its 12 bits (R92). The write data
is not part of the command word; it comes with the command on the port (R90). -/
inductive Instr where
  /-- FADD `wd, wa, wb` (R121) -/
  | fadd (rd ra rb : Reg)
  /-- FMUL `wd, wa, wb` (R122) -/
  | fmul (rd ra rb : Reg)
  /-- FSQR `wd, wa` (R123) -/
  | fsqr (rd ra : Reg)
  /-- FRED `wd, wa` (R124) -/
  | fred (rd ra : Reg)
  /-- FEQ `wa, wb` (R125) -/
  | feq (ra rb : Reg)
  /-- GENC (R141) -/
  | genc
  /-- RDC `#i` (R146) -/
  | rdc (imm : Nat)
  /-- PERM `wd, wx, wk` (R180) -/
  | perm (rd ra rb : Reg)
  /-- HASHK `wd, wk, #n` (R193) -/
  | hashk (rd ra : Reg) (imm : Nat)
  /-- HASHZ `wd, #n` (R194) -/
  | hashz (rd : Reg) (imm : Nat)
  /-- PACK `#len` (R201) -/
  | pack (imm : Nat)
  /-- HASHB `wd, #len` (R202) -/
  | hashb (rd : Reg) (imm : Nat)
  /-- LDW `wd <- value` (R220) -/
  | ldw (rd : Reg)
  /-- RDW `wa` (R221) -/
  | rdw (ra : Reg)
  /-- WRE `#a <- value` (R222) -/
  | wre (imm : Nat)
  /-- RDE `#a` (R223) -/
  | rde (imm : Nat)
  /-- WRB `#a <- byte` (R224) -/
  | wrb (imm : Nat)
  /-- RDB `#a` (R225) -/
  | rdb (imm : Nat)
  /-- WRS `#a <- byte` (R226) -/
  | wrs (imm : Nat)
  /-- RDS `#a` (R227) -/
  | rds (imm : Nat)
  /-- LDE `wd, #a` (R228) -/
  | lde (rd : Reg) (imm : Nat)
  /-- STE `wa, #a` (R229) -/
  | ste (ra : Reg) (imm : Nat)
  /-- CSRR `#csr` (R250) -/
  | csrr (imm : Nat)
  /-- CSRW `#csr <- value` (R251) -/
  | csrw (imm : Nat)
  /-- CLRE (R252) -/
  | clre
  deriving DecidableEq, Repr

end Sys2Proof
end

