-- ==== Sys2Proof/Machine/Dispatch.lean ====
section
/-! DEFINITION. The dispatch: one arm for each command, one direct call of its meaning. -/

namespace Sys2Proof.Machine

def exec (i : Instr) (s : State) : Host.Outcome State Fault Refusal :=
  match i with
  | .fadd rd ra rb => Sys2Proof.Machine.execFadd rd ra rb s
  | .fmul rd ra rb => Sys2Proof.Machine.execFmul rd ra rb s
  | .fsqr rd ra => Sys2Proof.Machine.execFsqr rd ra s
  | .fred rd ra => Sys2Proof.Machine.execFred rd ra s
  | .feq ra rb => Sys2Proof.Machine.execFeq ra rb s
  | .genc => Sys2Proof.Machine.execGenc s
  | .rdc imm => Sys2Proof.Machine.execRdc imm s
  | .perm rd ra rb => Sys2Proof.Machine.execPerm rd ra rb s
  | .hashk rd ra imm => Sys2Proof.Machine.execHashk rd ra imm s
  | .hashz rd imm => Sys2Proof.Machine.execHashz rd imm s
  | .pack imm => Sys2Proof.Machine.execPack imm s
  | .hashb rd imm => Sys2Proof.Machine.execHashb rd imm s
  | .ldw rd => Sys2Proof.Machine.execLdw rd s
  | .rdw ra => Sys2Proof.Machine.execRdw ra s
  | .wre imm => Sys2Proof.Machine.execWre imm s
  | .rde imm => Sys2Proof.Machine.execRde imm s
  | .wrb imm => Sys2Proof.Machine.execWrb imm s
  | .rdb imm => Sys2Proof.Machine.execRdb imm s
  | .wrs imm => Sys2Proof.Machine.execWrs imm s
  | .rds imm => Sys2Proof.Machine.execRds imm s
  | .lde rd imm => Sys2Proof.Machine.execLde rd imm s
  | .ste ra imm => Sys2Proof.Machine.execSte ra imm s
  | .csrr imm => Sys2Proof.Machine.execCsrr imm s
  | .csrw imm => Sys2Proof.Machine.execCsrw imm s
  | .clre => Sys2Proof.Machine.execClre s

end Sys2Proof.Machine
end

