-- ==== Sys2Proof/WellFormed.lean ====
section
/-! DEFINITION. Which commands an encoding can carry: every immediate fits its 12 bits (spec 30_encoding.md R92). -/

namespace Sys2Proof

/-- The immediate is one of the 12-bit values 0..4095 (R91, R92). -/
def immFits (imm : Nat) : Bool := decide (imm < 4096)

/-- A command is well formed when its immediate fits (R92). A register field is bounded by its type. -/
def Instr.wellFormed : Instr → Bool
  | .fadd _ _ _ => true
  | .fmul _ _ _ => true
  | .fsqr _ _ => true
  | .fred _ _ => true
  | .feq _ _ => true
  | .genc => true
  | .rdc imm => immFits imm
  | .perm _ _ _ => true
  | .hashk _ _ imm => immFits imm
  | .hashz _ imm => immFits imm
  | .pack imm => immFits imm
  | .hashb _ imm => immFits imm
  | .ldw _ => true
  | .rdw _ => true
  | .wre imm => immFits imm
  | .rde imm => immFits imm
  | .wrb imm => immFits imm
  | .rdb imm => immFits imm
  | .wrs imm => immFits imm
  | .rds imm => immFits imm
  | .lde _ imm => immFits imm
  | .ste _ imm => immFits imm
  | .csrr imm => immFits imm
  | .csrw imm => immFits imm
  | .clre => true

end Sys2Proof
end

