-- ==== Sys2Proof/Decode.lean ====
section
/-! DEFINITION. The command decoder and encoder (spec 30_encoding.md R90 to R95): total, illegal words rejected by name. -/

namespace Sys2Proof

/-- The ten formats: the letters name the operand fields the command uses (R91). -/
inductive Format where
  | DAB | DA | AB | DAI | DI | AI | D | A | I | N
  deriving DecidableEq, Repr

/-- The format uses the field `rd` (R91). -/
def Format.usesRd : Format → Bool
  | .DAB | .DA | .DAI | .DI | .D => true
  | .AB | .AI | .A | .I | .N => false

/-- The format uses the field `ra` (R91). -/
def Format.usesRa : Format → Bool
  | .DAB | .DA | .AB | .DAI | .AI | .A => true
  | .DI | .D | .I | .N => false

/-- The format uses the field `rb` (R91). -/
def Format.usesRb : Format → Bool
  | .DAB | .AB => true
  | .DA | .DAI | .DI | .AI | .D | .A | .I | .N => false

/-- The format uses the field `imm` (R91). -/
def Format.usesImm : Format → Bool
  | .DAI | .DI | .AI | .I => true
  | .DAB | .DA | .AB | .D | .A | .N => false

/-- The opcode, bits 31:24 (R91). -/
def opField (w : BitVec 32) : Nat := w.toNat / 2 ^ 24

/-- The destination register number, bits 23:20 (R91). -/
def rdField (w : BitVec 32) : Reg := Fin.ofNat 16 (w.toNat / 2 ^ 20)

/-- The first source register number, bits 19:16 (R91). -/
def raField (w : BitVec 32) : Reg := Fin.ofNat 16 (w.toNat / 2 ^ 16)

/-- The second source register number, bits 15:12 (R91). -/
def rbField (w : BitVec 32) : Reg := Fin.ofNat 16 (w.toNat / 2 ^ 12)

/-- The unsigned immediate, bits 11:0 (R91, R92). -/
def immField (w : BitVec 32) : Nat := w.toNat % 2 ^ 12

/-- Why a word is no command (R94, R95); each raises ILLCMD. -/
inductive Illegal where
  /-- the opcode is one of the 231 unassigned values -/
  | unassignedOpcode (op : Nat)
  /-- the opcode is assigned and a field its format does not use is non-zero -/
  | nonzeroUnusedField (op : Nat)
  deriving DecidableEq, Repr

/-- The command set of R93: opcode to format and command, the operands taken from the fields. -/
def commandOf (op : Nat) (rd ra rb : Reg) (imm : Nat) : Option (Format × Instr) :=
  match op with
  | 0x10 => some (.DAB, .fadd rd ra rb)
  | 0x11 => some (.DAB, .fmul rd ra rb)
  | 0x12 => some (.DA, .fsqr rd ra)
  | 0x13 => some (.DA, .fred rd ra)
  | 0x14 => some (.AB, .feq ra rb)
  | 0x20 => some (.N, .genc)
  | 0x21 => some (.I, .rdc imm)
  | 0x30 => some (.DAB, .perm rd ra rb)
  | 0x40 => some (.DAI, .hashk rd ra imm)
  | 0x41 => some (.DI, .hashz rd imm)
  | 0x42 => some (.I, .pack imm)
  | 0x43 => some (.DI, .hashb rd imm)
  | 0x50 => some (.D, .ldw rd)
  | 0x51 => some (.A, .rdw ra)
  | 0x52 => some (.I, .wre imm)
  | 0x53 => some (.I, .rde imm)
  | 0x54 => some (.I, .wrb imm)
  | 0x55 => some (.I, .rdb imm)
  | 0x56 => some (.I, .wrs imm)
  | 0x57 => some (.I, .rds imm)
  | 0x58 => some (.DI, .lde rd imm)
  | 0x59 => some (.AI, .ste ra imm)
  | 0x60 => some (.I, .csrr imm)
  | 0x61 => some (.I, .csrw imm)
  | 0x62 => some (.N, .clre)
  | _ => none

/-- Every field the format does not use is zero in the word (R91, R94). -/
def Format.unusedZero (f : Format) (w : BitVec 32) : Bool :=
  (f.usesRd || rdField w == 0) && (f.usesRa || raField w == 0) &&
  (f.usesRb || rbField w == 0) && (f.usesImm || immField w == 0)

/-- The decoding procedure of R94: it depends on the word alone. -/
def decode (w : BitVec 32) : Except Illegal Instr :=
  match commandOf (opField w) (rdField w) (raField w) (rbField w) (immField w) with
  | none => .error (.unassignedOpcode (opField w))
  | some (f, i) => if f.unusedZero w then .ok i else .error (.nonzeroUnusedField (opField w))

/-- The one layout of R91: `op * 2^24 + rd * 2^20 + ra * 2^16 + rb * 2^12 + imm`. -/
def commandWord (op : Nat) (rd ra rb : Reg) (imm : Nat) : BitVec 32 :=
  BitVec.ofNat 32 (op * 2 ^ 24 + rd.val * 2 ^ 20 + ra.val * 2 ^ 16 + rb.val * 2 ^ 12 + imm)

/-- The opcode of a command (R93). -/
def Instr.opcode : Instr → Nat
  | .fadd _ _ _ => 0x10
  | .fmul _ _ _ => 0x11
  | .fsqr _ _ => 0x12
  | .fred _ _ => 0x13
  | .feq _ _ => 0x14
  | .genc => 0x20
  | .rdc _ => 0x21
  | .perm _ _ _ => 0x30
  | .hashk _ _ _ => 0x40
  | .hashz _ _ => 0x41
  | .pack _ => 0x42
  | .hashb _ _ => 0x43
  | .ldw _ => 0x50
  | .rdw _ => 0x51
  | .wre _ => 0x52
  | .rde _ => 0x53
  | .wrb _ => 0x54
  | .rdb _ => 0x55
  | .wrs _ => 0x56
  | .rds _ => 0x57
  | .lde _ _ => 0x58
  | .ste _ _ => 0x59
  | .csrr _ => 0x60
  | .csrw _ => 0x61
  | .clre => 0x62

/-- The mnemonic of a command, as the table of R93 spells it. -/
def Instr.mnemonic : Instr → String
  | .fadd _ _ _ => "FADD"
  | .fmul _ _ _ => "FMUL"
  | .fsqr _ _ => "FSQR"
  | .fred _ _ => "FRED"
  | .feq _ _ => "FEQ"
  | .genc => "GENC"
  | .rdc _ => "RDC"
  | .perm _ _ _ => "PERM"
  | .hashk _ _ _ => "HASHK"
  | .hashz _ _ => "HASHZ"
  | .pack _ => "PACK"
  | .hashb _ _ => "HASHB"
  | .ldw _ => "LDW"
  | .rdw _ => "RDW"
  | .wre _ => "WRE"
  | .rde _ => "RDE"
  | .wrb _ => "WRB"
  | .rdb _ => "RDB"
  | .wrs _ => "WRS"
  | .rds _ => "RDS"
  | .lde _ _ => "LDE"
  | .ste _ _ => "STE"
  | .csrr _ => "CSRR"
  | .csrw _ => "CSRW"
  | .clre => "CLRE"

/-- The command word of a command, the unused fields zero (R91, R93). -/
def encode (i : Instr) : BitVec 32 :=
  match i with
  | .fadd rd ra rb => commandWord i.opcode rd ra rb 0
  | .fmul rd ra rb => commandWord i.opcode rd ra rb 0
  | .fsqr rd ra => commandWord i.opcode rd ra 0 0
  | .fred rd ra => commandWord i.opcode rd ra 0 0
  | .feq ra rb => commandWord i.opcode 0 ra rb 0
  | .genc => commandWord i.opcode 0 0 0 0
  | .rdc imm => commandWord i.opcode 0 0 0 imm
  | .perm rd ra rb => commandWord i.opcode rd ra rb 0
  | .hashk rd ra imm => commandWord i.opcode rd ra 0 imm
  | .hashz rd imm => commandWord i.opcode rd 0 0 imm
  | .pack imm => commandWord i.opcode 0 0 0 imm
  | .hashb rd imm => commandWord i.opcode rd 0 0 imm
  | .ldw rd => commandWord i.opcode rd 0 0 0
  | .rdw ra => commandWord i.opcode 0 ra 0 0
  | .wre imm => commandWord i.opcode 0 0 0 imm
  | .rde imm => commandWord i.opcode 0 0 0 imm
  | .wrb imm => commandWord i.opcode 0 0 0 imm
  | .rdb imm => commandWord i.opcode 0 0 0 imm
  | .wrs imm => commandWord i.opcode 0 0 0 imm
  | .rds imm => commandWord i.opcode 0 0 0 imm
  | .lde rd imm => commandWord i.opcode rd 0 0 imm
  | .ste ra imm => commandWord i.opcode 0 ra 0 imm
  | .csrr imm => commandWord i.opcode 0 0 0 imm
  | .csrw imm => commandWord i.opcode 0 0 0 imm
  | .clre => commandWord i.opcode 0 0 0 0

/-- One row of the table of R93: a word `w` is the command exactly when `w and mask = match`. -/
structure OpcodeRow where
  mnemonic : String
  pattern : BitVec 32
  mask : BitVec 32
  deriving DecidableEq, Repr

/-- The 25 rows of R93, match and mask as the table writes them. -/
def opcodeTable : List OpcodeRow :=
  [ ⟨"FADD", 0x10000000, 0xFF000FFF⟩, ⟨"FMUL", 0x11000000, 0xFF000FFF⟩, ⟨"FSQR", 0x12000000, 0xFF00FFFF⟩,
    ⟨"FRED", 0x13000000, 0xFF00FFFF⟩, ⟨"FEQ", 0x14000000, 0xFFF00FFF⟩, ⟨"GENC", 0x20000000, 0xFFFFFFFF⟩,
    ⟨"RDC", 0x21000000, 0xFFFFF000⟩, ⟨"PERM", 0x30000000, 0xFF000FFF⟩, ⟨"HASHK", 0x40000000, 0xFF00F000⟩,
    ⟨"HASHZ", 0x41000000, 0xFF0FF000⟩, ⟨"PACK", 0x42000000, 0xFFFFF000⟩, ⟨"HASHB", 0x43000000, 0xFF0FF000⟩,
    ⟨"LDW", 0x50000000, 0xFF0FFFFF⟩ ] ++
  [ ⟨"RDW", 0x51000000, 0xFFF0FFFF⟩, ⟨"WRE", 0x52000000, 0xFFFFF000⟩, ⟨"RDE", 0x53000000, 0xFFFFF000⟩,
    ⟨"WRB", 0x54000000, 0xFFFFF000⟩, ⟨"RDB", 0x55000000, 0xFFFFF000⟩, ⟨"WRS", 0x56000000, 0xFFFFF000⟩,
    ⟨"RDS", 0x57000000, 0xFFFFF000⟩, ⟨"LDE", 0x58000000, 0xFF0FF000⟩, ⟨"STE", 0x59000000, 0xFFF0F000⟩,
    ⟨"CSRR", 0x60000000, 0xFFFFF000⟩, ⟨"CSRW", 0x61000000, 0xFFFFF000⟩, ⟨"CLRE", 0x62000000, 0xFFFFFFFF⟩ ]

/-- The word is the row's command (R93, R94). -/
def OpcodeRow.matchesWord (r : OpcodeRow) (w : BitVec 32) : Bool := w &&& r.mask == r.pattern

/-- The command an opcode-table word stands for: its `nbits` low bits, every higher bit of the 32-bit command zero
(every command is one 32-bit word, R90). -/
def decodeTableWord (nbits w : Nat) : Option Instr := (decode (BitVec.ofNat 32 (w % 2 ^ nbits))).toOption

end Sys2Proof
end

