-- ==== Sys2Proof/Machine/Port.lean ====
section
/-! DEFINITION. The port: the pins, the handshake, reset and the way from a command word to its command (spec
70_reset_and_hazards.md R310 to R318). -/

namespace Sys2Proof.Machine

/-! ## The host's side -/

/-- Nothing on the input pins: no reset, no command, not ready for a response. -/
def HostPins.quiet : HostPins := ⟨none, none, false⟩

/-- A command on the command pins (R318). -/
def HostPins.present (c : Command) : HostPins := ⟨none, some c, false⟩

/-- `rsp_ready` is 1 (R318). -/
def HostPins.ready : HostPins := ⟨none, none, true⟩

/-- `rst` is 1, with what EM and BM hold afterwards (R310, R50). -/
def HostPins.reset (img : Image) : HostPins := ⟨some img, none, false⟩

/-- The host's part of one command: present it, wait while it executes, take the response (R318). -/
def exchange (c : Command) : List HostPins := [.present c, .quiet, .ready]

/-- The host's part of a sequence of commands, each answered before the next is presented (R19). -/
def scriptOf (cs : List Command) : List HostPins := cs.flatMap exchange

/-- The input pins at this edge. A host that has nothing more to do leaves them quiet, and the block then stays as it is,
idle for ever or with its response presented (R19, R318). -/
def State.pins (s : State) : HostPins := s.script.headD .quiet

/-- The edge is over: its pins are sampled. -/
def State.nextEdge (s : State) : State := { s with script := s.script.tail }

/-- The host's unaccepted command after an edge at which `cmd_ready` was 0 (R318): withdrawn, held, or changed. -/
def Offer.afterBusy : Offer → Option Command → Offer
  | _, none => .nothing
  | .nothing, some c => .held c
  | .held c', some c => if c = c' then .held c' else .changed
  | .changed, some _ => .changed

/-- The host kept the command it now has accepted stable while it waited (R318, R321 item 1). -/
def Offer.admits : Offer → Command → Bool
  | .nothing, _ => true
  | .held c', c => decide (c = c')
  | .changed, _ => false

/-! ## Reset -/

/-- The state after reset with EM and BM holding what the image says (R50, R310; 93_implementation_defined.md U1). -/
def State.resetWith (img : Image) : State :=
  { State.reset with
    em := Mem.ofValues wordUnlisted Config.emDepth img.em
    bm := Mem.ofValues byteUnlisted Config.bmDepth img.bm }

/-- An edge at which `rst` is 1 (R310, R312): the state is the reset state whatever was in flight; a command in flight leaves
no effect and no response, a presented response is withdrawn. The host's side goes on. -/
def State.resetEdge (s : State) (img : Image) : State :=
  { State.resetWith img with script := s.script.tail, taken := s.taken }

/-! ## The edges of R318 -/

/-- An edge at which the block is idle: `cmd_ready` is 1, so a presented command is accepted, its word and write data taken
at this edge. A command the host changed while it waited has no meaning (R321 item 1; U6). -/
def State.acceptEdge (s : State) : Outcome :=
  match s.pins.cmd with
  | none => .next { s.nextEdge with offer := .nothing }
  | some c =>
    if s.offer.admits c then .next { s.nextEdge with port := .inFlight c, offer := .nothing }
    else .refused .handshakeBreach

/-- The state in which an accepted command is executed, or a response waits: the edge is over and a command the host presents
meanwhile is not accepted, since `cmd_ready` is 0 while the block is busy (R317). -/
def State.busyEdge (s : State) : State := { s.nextEdge with offer := s.offer.afterBusy s.pins.cmd }

/-- An edge at which a response is presented (R318): when `rsp_ready` is 1 it is transferred and the block is idle again,
otherwise it is held stable. -/
def State.responseEdge (s : State) (r : Response) : State :=
  if s.pins.rspReady then { s.busyEdge with port := .idle, taken := s.taken ++ [r] } else s.busyEdge

/-- A word that is no command raises ILLCMD, with no other effect (R95). -/
def illegalCommand (s : State) : Outcome := raise s .illcmd 0

/-! ## The output pins -/

/-- The output pins (R316). `rsp` is `some` when `rsp_valid` is 1, with `rsp_status` and `rsp_rdata`; while `rsp_valid` is 0
those two mean nothing and have no value here (93_implementation_defined.md U4). -/
structure OutPins where
  cmdReady : Bool
  rsp : Option Response
  busy : Bool
  irq : Bool
  deriving DecidableEq, Repr

/-- The response on the pins, if one is presented (R318). -/
def State.rsp (s : State) : Option Response :=
  match s.port with
  | .answering r => some r
  | .idle => none
  | .inFlight _ => none

/-- `busy`: from the acceptance of a command to the transfer of its response (R317). -/
def State.busy (s : State) : Bool :=
  match s.port with
  | .idle => false
  | .inFlight _ => true
  | .answering _ => true

/-- The output pins in a state: `cmd_ready` is `not busy` (R317), `irq` as R286 says. -/
def State.outPins (s : State) : OutPins := ⟨!s.busy, s.rsp, s.busy, s.irq⟩

end Sys2Proof.Machine
end

