-- ==== Sys2Proof/Machine/Execute.lean ====
section
/-! DEFINITION. What an accepted command word does: decoding comes first, from the word alone (spec 30_encoding.md R94, R95). -/

namespace Sys2Proof.Machine

/-- The command a word decodes to is executed; a word that is no command raises ILLCMD (R94, R95). -/
def execWord (w : BitVec 32) (s : State) : Outcome :=
  match decode w with
  | .ok i => exec i s
  | .error _ => illegalCommand s

end Sys2Proof.Machine
end

