-- ==== Sys2Proof/Machine/Step.lean ====
section
/-! DEFINITION. One step of the machine, an edge of the port protocol (spec 70_reset_and_hazards.md R318), and the placing of a command
word where the step takes it. -/

namespace Sys2Proof.Machine

/-- One step. Reset comes before everything (R310, R312). An idle block accepts a presented command; an accepted command is
decoded and executed, as one step (R67, R94; assumption log 3); a presented response is transferred or held. -/
def step (s : State) : Host.Outcome State Fault Refusal :=
  match s.pins.rst with
  | some img => .next (s.resetEdge img)
  | none =>
    match s.port with
    | .idle => s.acceptEdge
    | .inFlight c => execWord c.word s.busyEdge
    | .answering r => .next (s.responseEdge r)

/-- `s` with the command word `w` (its `nbits` low bits, the rest zero) accepted and in flight, so that the next step executes
it: the block fetches nothing (R28), a command reaches it over the port. The write data is the one in flight, if any, else 0.
The coming edge is a quiet one, put before the host's script, so that no reset comes first (assumption logs 4 and 7). -/
def State.withFetchWord (s : State) (nbits w : Nat) : State :=
  { s with
    port := .inFlight ⟨BitVec.ofNat 32 (w % 2 ^ nbits), s.wdata⟩
    script := HostPins.quiet :: s.script }

end Sys2Proof.Machine
end

