-- ==== Sys2Proof/Machine/Pseudo.lean ====
section
/-! DEFINITION. The pseudo-commands: each stands for a sequence of commands and has no encoding of its own (spec 30_encoding.md R99). -/

namespace Sys2Proof.Machine

/-- A command with its write data as it goes over the port (R90). -/
def Command.of (i : Instr) (wdata : Nat) : Command := ⟨encode i, BitVec.ofNat 256 wdata⟩

/-- One command for each value, the index counted from `j` on, with the value as its write data. -/
def forEach (make : Nat → Instr) : Nat → List Nat → List (Instr × Nat)
  | _, [] => []
  | j, v :: vs => (make j, v) :: forEach make (j + 1) vs

/-- The pseudo-commands of R99. A seed is given by the bytes of its encoding. -/
inductive Pseudo where
  | seed (bytes : List Byte)
  | construct (n : Nat)
  | elems (vs : List Word)
  | bytes (bs : List Byte)
  | movr (wd wa : Reg)
  deriving DecidableEq, Repr

/-- The commands a pseudo-command stands for, each with its write data (R99). -/
def Pseudo.commands : Pseudo → List (Instr × Nat)
  | .seed bs => forEach .wrs 0 (bs.map BitVec.toNat) ++ [(.csrw 0x004, bs.length)]
  | .construct n => [(.csrw 0x003, n), (.genc, 0)]
  | .elems vs => forEach .wre 0 (vs.map BitVec.toNat)
  | .bytes bs => forEach .wrb 0 (bs.map BitVec.toNat)
  | .movr wd wa => [(.fred wd wa, 0)]

/-- The expansion of a pseudo-command (R99). R99 sets no bound on the operands and R92 has no index above 4095: SEED, ELEMS and BYTES
with more than 4096 operands have no expansion here. DESIGN CHOICE, safe (assumption log 15). -/
def Pseudo.expand (p : Pseudo) : Option (List Command) :=
  if p.commands.all fun c => c.1.wellFormed then some (p.commands.map fun c => .of c.1 c.2) else none

end Sys2Proof.Machine
end

