-- ==== Sys2Proof/Safety.lean ====
section
/-! DEFINITION. What counts as a sound state and a safe run, and the spec's tables of which command reads, writes or raises what,
in the terms the statements use. -/

namespace Sys2Proof.Machine

/-! ## Sound states -/

/-- The information word a cause records (R272), cause 0 being "no fault recorded" (R37, R38). -/
def infoOk (cause info : Nat) : Bool :=
  match cause with
  | 0 => info == 0
  | 1 => (0x8000 ≤ info && info ≤ 0x800F) || info ≤ 0x00FF
  | 2 => info == 0
  | 3 => info == 0
  | 4 => info == 1 || info == 2
  | 5 => info ≤ 0x0FFF
  | 6 => info ≤ 0x0FFF
  | _ => false

/-- Every memory has its canonical form and lists no location outside it (R44, R65). -/
abbrev State.MemoriesOk (s : State) : Prop :=
  Mem.wf wordUnlisted Config.emDepth s.em ∧ Mem.wf byteUnlisted Config.bmDepth s.bm ∧
  Mem.wf seedUnlisted Config.smDepth s.sm ∧ Mem.wf wordUnlisted Config.nrMax s.ct

/-- The constants table is as R36 and R42 say: CTN is 0 exactly when CTV is 0 and at most `NR_MAX`; each of `CT[0..CTN-1]` is
canonical and `CT[0]` is 0. -/
abbrev State.TableOk (s : State) : Prop :=
  s.ctn.toNat ≤ Config.nrMax ∧ (s.ctv = false ↔ s.ctn = 0) ∧ (s.ctv = true → s.readCt 0 = 0) ∧
  ∀ i, i < s.ctn.toNat → canonical (s.readCt i) = true

/-- The fault record is as R37 to R39 and R272 say: a cause of 0 to 6, its bit in ESTICKY, no reserved bit set, an information word
of its cause, and no cause exactly when nothing is recorded. -/
abbrev State.RecordOk (s : State) : Prop :=
  s.ecause.toNat ≤ 6 ∧ (s.ecause = 0 ↔ s.esticky = 0) ∧
  (s.ecause ≠ 0 → s.esticky.getLsbD s.ecause.toNat = true) ∧
  (∀ b, b < 16 → s.esticky.getLsbD b = true → 1 ≤ b ∧ b ≤ 6) ∧
  infoOk s.ecause.toNat s.einfo.toNat = true

/-- A presented response carries a cause code that exists, and no data with a fault (R271, R276). -/
def Port.ok : Port → Bool
  | .idle => true
  | .inFlight _ => true
  | .answering r => decide (r.status.toNat ≤ 6) && (decide (r.status = 0) || decide (r.rdata = 0))

/-- The invariant of the machine. -/
abbrev State.Inv (s : State) : Prop := s.MemoriesOk ∧ s.TableOk ∧ s.RecordOk ∧ s.port.ok = true

/-- The host has kept its obligation of R318 at this edge: a command about to be accepted was not changed while it waited. -/
def State.handshakeKept (s : State) : Bool :=
  match s.pins.rst, s.port, s.pins.cmd with
  | none, .idle, some c => s.offer.admits c
  | _, _, _ => true

/-- The response a command has been given, if it has been answered. -/
abbrev State.answered (s : State) (status : BitVec 4) (rdata : Word) : Prop := s.port = .answering ⟨status, rdata⟩

end Sys2Proof.Machine

namespace Sys2Proof

open Machine

/-! ## The tables of the spec -/

/-- The word register a command writes, if it writes one (R24). -/
def Instr.dest : Instr → Option Reg
  | .fadd rd _ _ | .fmul rd _ _ | .fsqr rd _ | .fred rd _ | .perm rd _ _ => some rd
  | .hashk rd _ _ | .hashz rd _ | .hashb rd _ | .ldw rd | .lde rd _ => some rd
  | .feq _ _ | .genc | .rdc _ | .pack _ | .rdw _ | .wre _ | .rde _ | .wrb _ | .rdb _ => none
  | .wrs _ | .rds _ | .ste _ _ | .csrr _ | .csrw _ | .clre => none

/-- The command computes the word it writes, so that the word is canonical (R23). -/
def Instr.computes : Instr → Bool
  | .fadd _ _ _ | .fmul _ _ _ | .fsqr _ _ | .fred _ _ | .perm _ _ _ | .hashk _ _ _ | .hashz _ _ | .hashb _ _ => true
  | .feq _ _ | .genc | .rdc _ | .pack _ | .ldw _ | .rdw _ | .wre _ | .rde _ | .wrb _ | .rdb _ => false
  | .wrs _ | .rds _ | .lde _ _ | .ste _ _ | .csrr _ | .csrw _ | .clre => false

/-- The command uses the write data (R93, column "uses wdata"). -/
def Instr.usesWdata : Instr → Bool
  | .ldw _ | .wre _ | .wrb _ | .wrs _ | .csrw _ => true
  | .fadd _ _ _ | .fmul _ _ _ | .fsqr _ _ | .fred _ _ | .feq _ _ | .genc | .rdc _ | .perm _ _ _ => false
  | .hashk _ _ _ | .hashz _ _ | .pack _ | .hashb _ _ | .rdw _ | .rde _ | .rdb _ | .rds _ => false
  | .lde _ _ | .ste _ _ | .csrr _ | .clre => false

/-- The command returns read data (R93, column "returns rdata"). -/
def Instr.returnsRdata : Instr → Bool
  | .feq _ _ | .rdc _ | .pack _ | .rdw _ | .rde _ | .rdb _ | .rds _ | .csrr _ => true
  | .fadd _ _ _ | .fmul _ _ _ | .fsqr _ _ | .fred _ _ | .genc | .perm _ _ _ | .hashk _ _ _ | .hashz _ _ => false
  | .hashb _ _ | .ldw _ | .wre _ | .wrb _ | .wrs _ | .lde _ _ | .ste _ _ | .csrw _ | .clre => false

/-- The causes a command can raise once decoded; ILLCMD, which any word can raise, comes before decoding (R273). -/
def Instr.causes : Instr → List Cause
  | .fadd _ _ _ | .fmul _ _ _ | .fsqr _ _ | .feq _ _ => [.oof]
  | .genc => [.badcfg]
  | .rdc _ => [.notready, .badarg]
  | .perm _ _ _ => [.notready, .oof]
  | .hashk _ _ _ | .hashz _ _ => [.notready, .badarg, .oof]
  | .hashb _ _ => [.notready]
  | .wre _ | .rde _ | .lde _ _ | .ste _ _ | .wrs _ | .rds _ => [.badarg]
  | .csrr _ | .csrw _ => [.badcsr]
  | .fred _ _ | .pack _ | .ldw _ | .rdw _ | .wrb _ | .rdb _ | .clre => []

/-- The element-memory locations a command stores to: none but for WRE, STE and PACK, which store to `EM[imm]`, `EM[imm]` and
`EM[0..m-1]`, `m` the number of chunks (R44, R201, R222, R229). -/
def Instr.storesEm : Instr → Nat → Bool
  | .wre imm, a => a == imm
  | .ste _ imm, a => a == imm
  | .pack len, a => decide (a < chunkCount len)
  | .fadd _ _ _, _ | .fmul _ _ _, _ | .fsqr _ _, _ | .fred _ _, _ | .feq _ _, _ | .genc, _ | .rdc _, _ => false
  | .perm _ _ _, _ | .hashk _ _ _, _ | .hashz _ _, _ | .hashb _ _, _ | .ldw _, _ | .rdw _, _ | .rde _, _ => false
  | .wrb _, _ | .rdb _, _ | .wrs _, _ | .rds _, _ | .lde _ _, _ | .csrr _, _ | .csrw _, _ | .clre, _ => false

/-- The byte-memory locations a command stores to: `BM[imm]` for WRB (R44, R224). -/
def Instr.storesBm : Instr → Nat → Bool
  | .wrb imm, a => a == imm
  | .fadd _ _ _, _ | .fmul _ _ _, _ | .fsqr _ _, _ | .fred _ _, _ | .feq _ _, _ | .genc, _ | .rdc _, _ => false
  | .perm _ _ _, _ | .hashk _ _ _, _ | .hashz _ _, _ | .hashb _ _, _ | .ldw _, _ | .rdw _, _ | .rde _, _ => false
  | .pack _, _ | .wre _, _ | .ste _ _, _ => false
  | .rdb _, _ | .wrs _, _ | .rds _, _ | .lde _ _, _ | .csrr _, _ | .csrw _, _ | .clre, _ => false

/-- The seed-memory locations a command stores to: `SM[imm]` for WRS (R44, R226). -/
def Instr.storesSm : Instr → Nat → Bool
  | .wrs imm, a => a == imm
  | .fadd _ _ _, _ | .fmul _ _ _, _ | .fsqr _ _, _ | .fred _ _, _ | .feq _ _, _ | .genc, _ | .rdc _, _ => false
  | .perm _ _ _, _ | .hashk _ _ _, _ | .hashz _ _, _ | .hashb _ _, _ | .ldw _, _ | .rdw _, _ | .rde _, _ => false
  | .pack _, _ | .wre _, _ | .ste _ _, _ => false
  | .wrb _, _ | .rdb _, _ | .rds _, _ | .lde _ _, _ | .csrr _, _ | .csrw _, _ | .clre, _ => false

/-- The command reads or writes a control register by its number (R250, R251). -/
def Instr.isCsrAccess : Instr → Bool
  | .csrr _ | .csrw _ => true
  | .fadd _ _ _ | .fmul _ _ _ | .fsqr _ _ | .fred _ _ | .feq _ _ | .genc | .rdc _ | .perm _ _ _ => false
  | .hashk _ _ _ | .hashz _ _ | .pack _ | .hashb _ _ | .ldw _ | .rdw _ | .wre _ | .rde _ => false
  | .wrb _ | .rdb _ | .wrs _ | .rds _ | .lde _ _ | .ste _ _ | .clre => false

/-- The command uses the constants table (R43). -/
def Instr.usesTable : Instr → Bool
  | .rdc _ | .perm _ _ _ | .hashk _ _ _ | .hashz _ _ | .hashb _ _ => true
  | .fadd _ _ _ | .fmul _ _ _ | .fsqr _ _ | .fred _ _ | .feq _ _ | .genc | .pack _ | .ldw _ => false
  | .rdw _ | .wre _ | .rde _ | .wrb _ | .rdb _ | .wrs _ | .rds _ | .lde _ _ | .ste _ _ => false
  | .csrr _ | .csrw _ | .clre => false

end Sys2Proof

namespace Sys2Proof.Machine

/-! ## Forms the statements share -/

/-- The words of one opcode: with every field its format does not use zero, the word is the command and executes as it; otherwise
it is illegal and raises ILLCMD, whatever the state (R94, R95). -/
def DecodesAs (op : Nat) (command : BitVec 32 → Instr) (unusedZero : BitVec 32 → Prop) : Prop :=
  ∀ w : BitVec 32, opField w = op →
    (unusedZero w → decode w = .ok (command w) ∧ ∀ s : State, execWord w s = exec (command w) s) ∧
    (¬ unusedZero w → decode w = .error (.nonzeroUnusedField op) ∧ ∀ s : State, execWord w s = .next (s.takeFault .illcmd 0))

/-- The same outcome with another state in place of the next one. -/
def mapNext (f : State → State) : Outcome → Outcome
  | .next t => .next (f t)
  | .fault r => .fault r
  | .refused r => .refused r

end Sys2Proof.Machine
end

