-- ==== Sys2Proof/Certificates/Slice0/Obligations.lean ====
section
/-! DEFINITION. The statements for the provers: each `Obligations.<Name>` says what a rule of the spec says of the model. -/

open Sys2Proof Sys2Proof.Machine

/-! ## Encoding -/

/-- Decoding the word of a well-formed command gives the command back, every operand at every value (R91, R93, R94). -/
def Obligations.DecodeOfEncodeIsTheCommand : Prop :=
  ∀ i : Instr, i.wellFormed = true → decode (encode i) = .ok i

/-- A word that decodes is the word of the command it decodes to, and that command is well formed: no bit of a legal word is
ignored (R91, R94, R95). -/
def Obligations.EncodeOfDecodeIsTheWord : Prop :=
  ∀ (w : BitVec 32) (i : Instr), decode w = .ok i → i.wellFormed = true ∧ encode i = w

/-- The decoder accepts exactly the words that a row of the table of R93 matches, as the command of that row, and the rows are
pairwise disjoint (R93, R94). -/
def Obligations.DecoderFollowsMatchAndMask : Prop :=
  (∀ (w : BitVec 32) (r : OpcodeRow), r ∈ opcodeTable → r.matchesWord w = true →
    ∃ i, decode w = .ok i ∧ i.mnemonic = r.mnemonic) ∧
  (∀ w : BitVec 32, (∀ r ∈ opcodeTable, r.matchesWord w = false) → ∃ e, decode w = .error e) ∧
  (∀ w : BitVec 32, ∀ r ∈ opcodeTable, ∀ r' ∈ opcodeTable, r.matchesWord w = true → r'.matchesWord w = true → r = r')

/-- The words R98 writes out for its listings, and the fields 95_test_vectors.md section 2.10 extracts from three words. -/
def Obligations.WrittenOutWordsDecode : Prop :=
  decode 0x50100000 = .ok (.ldw 1) ∧ decode 0x10312000 = .ok (.fadd 3 1 2) ∧ decode 0x40040002 = .ok (.hashk 0 4 2) ∧
  decode 0x56000000 = .ok (.wrs 0) ∧ decode 0x61000003 = .ok (.csrw 3) ∧ decode 0x51030000 = .ok (.rdw 3) ∧
  decode 0x40540003 = .ok (.hashk 5 4 3) ∧ decode 0x30ABC000 = .ok (.perm 10 11 12) ∧ decode 0x60000009 = .ok (.csrr 9)

/-! ## The machine -/

/-- A step at a state with an accepted command and no reset on the pins executes the command's word at the state after the edge,
which differs only in the host's side: the meaning of the command it decodes to, or ILLCMD (R7, R67, R94). That the command is
executed whole at the first edge after its acceptance is the model's choice (assumption log 3: R318 leaves the number of cycles
open). -/
def Obligations.StepRunsTheDecodedCommand : Prop :=
  ∀ (s : State) (c : Command), s.port = .inFlight c → s.pins.rst = none →
    step s = execWord c.word s.busyEdge ∧
    (∀ i : Instr, decode c.word = .ok i → step s = exec i s.busyEdge) ∧
    (∀ e : Illegal, decode c.word = .error e → step s = .next (s.busyEdge.takeFault .illcmd 0)) ∧
    s.busyEdge = { s with script := s.script.tail, offer := s.offer.afterBusy s.pins.cmd } ∧ s.busyEdge.wdata = c.wdata

/-- A word that is no command raises ILLCMD with information 0 and no other effect; 231 opcode values are unassigned; the all-zero
and the all-ones word are illegal (R95). -/
def Obligations.IllegalWordRaisesIllcmd : Prop :=
  (∀ (w : BitVec 32) (e : Illegal) (s : State), decode w = .error e → execWord w s = .next (s.takeFault .illcmd 0)) ∧
  (∀ w : BitVec 32, opField w ∉ [0x10, 0x11, 0x12, 0x13, 0x14, 0x20, 0x21, 0x30, 0x40, 0x41, 0x42, 0x43, 0x50, 0x51, 0x52, 0x53,
      0x54, 0x55, 0x56, 0x57, 0x58, 0x59, 0x60, 0x61, 0x62] → decode w = .error (.unassignedOpcode (opField w))) ∧
  decode 0x00000000 = .error (.unassignedOpcode 0) ∧ decode 0xFFFFFFFF = .error (.unassignedOpcode 255)

/-- Every well-formed command answers once whatever the state: with a cause the command can raise, no data, and nothing changed but
the fault record; or with status 0, and with data only where the command returns data (R273, R276, R319, R93). -/
def Obligations.EveryCommandAnswers : Prop :=
  ∀ (i : Instr) (s : State), i.wellFormed = true → ∃ (t : State) (r : Response), exec i s = .next t ∧ t.port = .answering r ∧
    (r.status ≠ 0 → r.rdata = 0 ∧ ∃ c ∈ i.causes, r.status.toNat = c.code ∧ ∃ info, t = s.takeFault c info) ∧
    (r.status = 0 → i.returnsRdata = false → r.rdata = 0)

/-- Taking a fault writes the record and the response and nothing else (R276), with the codes of R271. -/
def Obligations.FaultEntryWritesTheRecordOnly : Prop :=
  (∀ (s : State) (c : Cause) (n : Nat), n < 2 ^ 16 →
    (s.takeFault c n).ecause.toNat = c.code ∧ (s.takeFault c n).einfo.toNat = n ∧
    (∀ b, b < 16 → (s.takeFault c n).esticky.getLsbD b = (s.esticky.getLsbD b || decide (b = c.code))) ∧
    (∃ r : Response, (s.takeFault c n).port = .answering r ∧ r.status.toNat = c.code ∧ r.rdata = 0) ∧
    s.takeFault c n = { s with
      ecause := (s.takeFault c n).ecause, einfo := (s.takeFault c n).einfo,
      esticky := (s.takeFault c n).esticky, port := (s.takeFault c n).port }) ∧
  [Cause.oof, .illcmd, .notready, .badcfg, .badarg, .badcsr].map Cause.code = [1, 2, 3, 4, 5, 6]

/-- A command that completes without fault leaves the fault record as it was, but for CLRE (R276, R252). -/
def Obligations.SuccessLeavesTheFaultRecord : Prop :=
  ∀ (i : Instr) (s t : State) (v : Word), exec i s = .next t → t.answered 0 v → i ≠ .clre →
    t.ecause = s.ecause ∧ t.einfo = s.einfo ∧ t.esticky = s.esticky

/-- Reissuing a faulted command, with the same write data, faults again with the same code and information and changes nothing
more (R278). -/
def Obligations.ReissuedFaultRepeats : Prop :=
  ∀ (i : Instr) (s t : State) (st : BitVec 4) (v : Word), exec i s = .next t → t.answered st v → st ≠ 0 →
    exec i { t with port := s.port } = .next t

/-- A step goes on to a next state unless the host has a command accepted that it changed while it waited; the refusal then is the
model's choice of a treatment, the one 93_implementation_defined.md U6 names (assumption log 5). -/
def Obligations.StepStopsOnlyOnHandshakeBreach : Prop :=
  ∀ s : State, (s.handshakeKept = true → ∃ t, step s = .next t) ∧
    (s.handshakeKept = false → step s = .refused .handshakeBreach)

/-- What reset leaves (R50), whatever EM and BM then hold: any contents are possible, and they are what is read. -/
def Obligations.ResetLeavesTheResetState : Prop :=
  ∀ img : Image,
    (∀ r : Reg, (State.resetWith img).reg r = 0) ∧
    (State.resetWith img).ctv = false ∧ (State.resetWith img).ctn = 0 ∧
    (State.resetWith img).nrounds.toNat = 91 ∧ (State.resetWith img).seedlen.toNat = 4 ∧
    [0, 1, 2, 3].map (State.resetWith img).readSm = [0x6D, 0x69, 0x6D, 0x63] ∧
    (∀ a, 4 ≤ a → (State.resetWith img).readSm a = 0) ∧
    (State.resetWith img).eie = false ∧ (State.resetWith img).ecause = 0 ∧ (State.resetWith img).einfo = 0 ∧
    (State.resetWith img).esticky = 0 ∧
    (∀ a v, a < 256 → img.em[a]? = some v → (State.resetWith img).readEm a = v) ∧
    (∀ a b, a < 4096 → img.bm[a]? = some b → (State.resetWith img).readBm a = b) ∧
    (State.resetWith img).port = .idle ∧ (State.resetWith img).outPins = ⟨true, none, false, false⟩

/-- An edge with `rst` at 1 gives the reset state whatever the block was doing: a command in flight is abandoned, a presented
response is withdrawn, and no response is transferred (R310, R312). -/
def Obligations.ResetEdgeAbandonsTheCommand : Prop :=
  ∀ (s : State) (img : Image), s.pins.rst = some img →
    ∃ t, step s = .next t ∧ t = { State.resetWith img with script := s.script.tail, taken := s.taken } ∧
      t.outPins = ⟨true, none, false, false⟩

/-- The handshake of R318, edge by edge, with no reset: an idle block accepts a presented command that the host did not change while
it waited, and takes its word and write data; with none presented it stays idle; a presented response is transferred when
`rsp_ready` is 1 and held otherwise. While `cmd_ready` is 0 a presented command is noted: withdrawn, held stable (it is the one
that may be accepted) or changed (none may be). Beside the host's side nothing changes at these edges. `cmd_ready` is `not busy`
(R317). That a changed command stays refused until it is withdrawn is the model's choice (assumption log 5). -/
def Obligations.HandshakeEdges : Prop :=
  (∀ s : State, s.pins.rst = none →
    (∀ c, s.port = .idle → s.pins.cmd = some c → s.offer.admits c = true →
      step s = .next { s with port := .inFlight c, offer := .nothing, script := s.script.tail }) ∧
    (s.port = .idle → s.pins.cmd = none → step s = .next { s with offer := .nothing, script := s.script.tail }) ∧
    (∀ r, s.port = .answering r → s.pins.rspReady = true → step s = .next { s with
      port := .idle, taken := s.taken ++ [r], offer := s.offer.afterBusy s.pins.cmd, script := s.script.tail }) ∧
    (∀ r, s.port = .answering r → s.pins.rspReady = false → step s = .next { s with
      offer := s.offer.afterBusy s.pins.cmd, script := s.script.tail }) ∧
    s.outPins.cmdReady = !s.outPins.busy ∧ (s.outPins.busy = false ↔ s.port = .idle)) ∧
  (∀ (o : Offer) (c : Command), o.afterBusy none = .nothing ∧ Offer.nothing.afterBusy (some c) = .held c ∧
    (Offer.held c).afterBusy (some c) = .held c ∧ (∀ c', c' ≠ c → (Offer.held c).afterBusy (some c') = .changed) ∧
    Offer.changed.afterBusy (some c) = .changed) ∧
  ∀ (c : Command), Offer.nothing.admits c = true ∧ (∀ c', (Offer.held c').admits c = true ↔ c = c') ∧ Offer.changed.admits c = false

/-- Over the three edges of an exchange (present, wait, take) an idle block gives exactly one response to a command that the host did
not change while it waited: the response the command's meaning gives, with the meaning's effect in place and the block idle again
(R318, R7). That one wait edge is enough is the model's choice (assumption log 3: R318 leaves the number of cycles open). -/
def Obligations.ExchangeIsOneTransaction : Prop :=
  ∀ (s : State) (c : Command) (rest : List HostPins), s.port = .idle → s.offer.admits c = true → s.script = exchange c ++ rest →
    ∃ (t : State) (r : Response),
      execWord c.word { s with port := .inFlight c, offer := .nothing, script := rest } = .next t ∧ t.port = .answering r ∧
      Host.Core.run core 3 s = .next { t with port := .idle, taken := s.taken ++ [r] }

/-- `irq` is `EIE and (ESTICKY != 0)`; CLRE and reset lower it; and EIE changes nothing in what a command does, but for the
commands that read or write it by its number (R286, R287). -/
def Obligations.IrqIsALevelThatActsOnNothing : Prop :=
  (∀ s : State, s.outPins.irq = true ↔ s.eie = true ∧ s.esticky ≠ 0) ∧
  (∀ s t : State, exec .clre s = .next t → t.outPins.irq = false) ∧
  (∀ img : Image, (State.resetWith img).outPins.irq = false) ∧
  (∀ (i : Instr) (s : State) (b : Bool), i.isCsrAccess = false →
    exec i { s with eie := b } = mapNext (fun t => { t with eie := b }) (exec i s))

/-- A command that does not use the write data does the same whatever comes with it (R90; 93_implementation_defined.md U5). -/
def Obligations.UnusedWriteDataIsIgnored : Prop :=
  ∀ (i : Instr) (s : State) (w w' : BitVec 32) (d d' : Word), i.usesWdata = false →
    exec i { s with port := .inFlight ⟨w, d⟩ } = exec i { s with port := .inFlight ⟨w', d'⟩ }

/-- A command writes no word register but its `W[rd]`; commands without one write none (R24). -/
def Obligations.OnlyTheDestinationRegisterChanges : Prop :=
  ∀ (i : Instr) (s t : State) (q : Reg), exec i s = .next t → i.dest ≠ some q → t.reg q = s.reg q

/-- Every location of EM, BM and SM reads as before outside those the command stores to, and CT, CTV and CTN change only by GENC
(R44, R43). -/
def Obligations.OnlyTheStoredLocationsChange : Prop :=
  ∀ (i : Instr) (s t : State), exec i s = .next t →
    (∀ a, i.storesEm a = false → t.readEm a = s.readEm a) ∧
    (∀ a, i.storesBm a = false → t.readBm a = s.readBm a) ∧
    (∀ a, i.storesSm a = false → t.readSm a = s.readSm a) ∧
    (i ≠ .genc → (∀ a, t.readCt a = s.readCt a) ∧ t.ctv = s.ctv ∧ t.ctn = s.ctn)

/-- NROUNDS, SEEDLEN and EIE change only by the CSRW that names them; no command touches the host's side (R33, R34, R35, R276). -/
def Obligations.OnlyCsrwChangesTheConfiguration : Prop :=
  ∀ (i : Instr) (s t : State), exec i s = .next t →
    (i ≠ .csrw 2 → t.eie = s.eie) ∧ (i ≠ .csrw 3 → t.nrounds = s.nrounds) ∧ (i ≠ .csrw 4 → t.seedlen = s.seedlen) ∧
    t.script = s.script ∧ t.offer = s.offer ∧ t.taken = s.taken

/-- A command that computes the word it writes writes a canonical one (R23). -/
def Obligations.ComputedWordsAreCanonical : Prop :=
  ∀ (i : Instr) (s t : State) (rd : Reg) (v : Word), i.computes = true → i.dest = some rd → exec i s = .next t →
    t.answered 0 v → (t.reg rd).toNat < Config.modulus

/-- The entries of CT at and above CTN, and the whole of it while CTV is 0, cannot be observed: whatever they are, a command but GENC
does the same, and GENC leaves states that agree outside CT and on the entries below CTN (R42, R43;
93_implementation_defined.md U2). -/
def Obligations.UnreadableTableEntriesAreUnobservable : Prop :=
  ∀ (i : Instr) (s : State) (m : Mem 256),
    (s.ctv = true → ∀ j, j < s.ctn.toNat → Mem.read wordUnlisted m j = s.readCt j) →
    (i ≠ .genc → exec i { s with ct := m } = mapNext (fun t => { t with ct := m }) (exec i s)) ∧
    (∀ t, exec .genc s = .next t → ∃ t', exec .genc { s with ct := m } = .next t' ∧ t' = { t with ct := t'.ct } ∧
      (t.ctv = true → ∀ j, j < t.ctn.toNat → t'.readCt j = t.readCt j))

/-- Until the next GENC the old table stays in use: what a command does with the table does not depend on NROUNDS, SEEDLEN or SM
(R315, R34). -/
def Obligations.TableUseIgnoresTheConfiguration : Prop :=
  ∀ (i : Instr) (s : State) (n : BitVec 16) (l : BitVec 8) (m : Mem 8), i.usesTable = true →
    exec i { s with nrounds := n, seedlen := l, sm := m } =
      mapNext (fun t => { t with nrounds := n, seedlen := l, sm := m }) (exec i s)

/-- The invariant of `Safety.lean` holds after reset, whatever EM and BM then hold. -/
def Obligations.ResetMeetsTheInvariant : Prop :=
  State.reset.Inv ∧ ∀ img : Image, (State.resetWith img).Inv

/-- Every step keeps the invariant: memories canonical and inside their depths; CTN at most `NR_MAX` and 0 exactly when CTV is 0;
the table's entries canonical and `CT[0]` 0; the fault record one the causes can leave; a presented response with a cause
that exists and no data with a fault (R36, R37, R38, R39, R42, R44, R272). -/
def Obligations.EveryStepKeepsTheInvariant : Prop :=
  ∀ s t : State, s.Inv → step s = .next t → t.Inv

/-! ## Field arithmetic -/

/-- The laws of the field functions (R120): the values on canonical operands, the identities, and the bound on the quotient. -/
def Obligations.FieldFunctionLaws : Prop :=
  (∀ a b, a < Config.modulus → b < Config.modulus →
    fadd a b = (if a + b < Config.modulus then a + b else a + b - Config.modulus)) ∧
  (∀ a b, a < Config.modulus → b < Config.modulus → a + b ≤ 2 * Config.modulus - 2 ∧ a + b < 2 ^ 255 ∧ a * b < 2 ^ 508) ∧
  (∀ a b, fmul a b = a * b % Config.modulus) ∧
  (∀ a, fsqr a = fmul a a) ∧
  (∀ v, fred v = (v % Config.modulus + Config.modulus) % Config.modulus) ∧
  (5 * Config.modulus < 2 ^ 256 ∧ 2 ^ 256 < 6 * Config.modulus) ∧ (∀ v : Word, v.toNat / Config.modulus ≤ 5) ∧
  (∀ a b, fadd a b < Config.modulus ∧ fmul a b < Config.modulus ∧ fsqr a < Config.modulus ∧ fred a < Config.modulus) ∧
  (∀ a, a < Config.modulus → fadd a 0 = a ∧ fmul a 1 = a ∧ fmul a 0 = 0 ∧ (a ≠ 0 → fadd a (Config.modulus - a) = 0)) ∧
  (∀ a b, fadd a b = fadd b a ∧ fmul a b = fmul b a) ∧
  (∀ a b k, fadd (fadd a b) k = fadd a (fadd b k) ∧ fmul (fmul a b) k = fmul a (fmul b k) ∧
    fmul a (fadd b k) = fadd (fmul a b) (fmul a k))

/-- FADD (R121): the sum modulo R, or OOF for the first out-of-field source. -/
def Obligations.FaddAddsModuloR : Prop :=
  DecodesAs 0x10 (fun w => .fadd (rdField w) (raField w) (rbField w)) (fun w => immField w = 0) ∧
  ∀ (rd ra rb : Reg) (s : State),
    ((s.reg ra).toNat < Config.modulus → (s.reg rb).toNat < Config.modulus →
      ∃ t, exec (.fadd rd ra rb) s = .next t ∧ (t.reg rd).toNat = ((s.reg ra).toNat + (s.reg rb).toNat) % Config.modulus ∧
        (∀ q, q ≠ rd → t.reg q = s.reg q) ∧
        t = { s with w := t.w, port := .answering ⟨0, 0⟩ }) ∧
    (Config.modulus ≤ (s.reg ra).toNat → exec (.fadd rd ra rb) s = .next (s.takeFault .oof (0x8000 + ra.val))) ∧
    ((s.reg ra).toNat < Config.modulus → Config.modulus ≤ (s.reg rb).toNat →
      exec (.fadd rd ra rb) s = .next (s.takeFault .oof (0x8000 + rb.val)))

/-- FMUL (R122): the full product's remainder, or OOF for the first out-of-field source. -/
def Obligations.FmulMultipliesModuloR : Prop :=
  DecodesAs 0x11 (fun w => .fmul (rdField w) (raField w) (rbField w)) (fun w => immField w = 0) ∧
  ∀ (rd ra rb : Reg) (s : State),
    ((s.reg ra).toNat < Config.modulus → (s.reg rb).toNat < Config.modulus →
      ∃ t, exec (.fmul rd ra rb) s = .next t ∧ (t.reg rd).toNat = ((s.reg ra).toNat * (s.reg rb).toNat) % Config.modulus ∧
        (∀ q, q ≠ rd → t.reg q = s.reg q) ∧
        t = { s with w := t.w, port := .answering ⟨0, 0⟩ }) ∧
    (Config.modulus ≤ (s.reg ra).toNat → exec (.fmul rd ra rb) s = .next (s.takeFault .oof (0x8000 + ra.val))) ∧
    ((s.reg ra).toNat < Config.modulus → Config.modulus ≤ (s.reg rb).toNat →
      exec (.fmul rd ra rb) s = .next (s.takeFault .oof (0x8000 + rb.val)))

/-- FSQR (R123): the square modulo R, or OOF; identical to FMUL of the register with itself, faults included. -/
def Obligations.FsqrSquaresModuloR : Prop :=
  DecodesAs 0x12 (fun w => .fsqr (rdField w) (raField w)) (fun w => rbField w = 0 ∧ immField w = 0) ∧
  ∀ (rd ra : Reg) (s : State),
    ((s.reg ra).toNat < Config.modulus →
      ∃ t, exec (.fsqr rd ra) s = .next t ∧ (t.reg rd).toNat = ((s.reg ra).toNat * (s.reg ra).toNat) % Config.modulus ∧
        (∀ q, q ≠ rd → t.reg q = s.reg q) ∧
        t = { s with w := t.w, port := .answering ⟨0, 0⟩ }) ∧
    (Config.modulus ≤ (s.reg ra).toNat → exec (.fsqr rd ra) s = .next (s.takeFault .oof (0x8000 + ra.val))) ∧
    exec (.fsqr rd ra) s = exec (.fmul rd ra ra) s

/-- FRED (R124): any word reduced modulo R, never a fault. -/
def Obligations.FredReducesAnyWord : Prop :=
  DecodesAs 0x13 (fun w => .fred (rdField w) (raField w)) (fun w => rbField w = 0 ∧ immField w = 0) ∧
  ∀ (rd ra : Reg) (s : State),
    ∃ t, exec (.fred rd ra) s = .next t ∧ (t.reg rd).toNat = (s.reg ra).toNat % Config.modulus ∧
      (∀ q, q ≠ rd → t.reg q = s.reg q) ∧
      t = { s with w := t.w, port := .answering ⟨0, 0⟩ }

/-- FEQ (R125): the answer 1 or 0 as read data, no state written; OOF for the first out-of-field source. -/
def Obligations.FeqAnswersEquality : Prop :=
  DecodesAs 0x14 (fun w => .feq (raField w) (rbField w)) (fun w => rdField w = 0 ∧ immField w = 0) ∧
  ∀ (ra rb : Reg) (s : State),
    ((s.reg ra).toNat < Config.modulus → (s.reg rb).toNat < Config.modulus →
      exec (.feq ra rb) s = .next { s with port := .answering ⟨0, if s.reg ra = s.reg rb then 1 else 0⟩ }) ∧
    (Config.modulus ≤ (s.reg ra).toNat → exec (.feq ra rb) s = .next (s.takeFault .oof (0x8000 + ra.val))) ∧
    ((s.reg ra).toNat < Config.modulus → Config.modulus ≤ (s.reg rb).toNat →
      exec (.feq ra rb) s = .next (s.takeFault .oof (0x8000 + rb.val)))

/-! ## Constant generator -/

/-- The derivation of the constants in closed form (R140): `c[0] = 0` and `c[i] = be2int(H256^(i+1)(seed)) mod R`. -/
def Obligations.ConstantsAreIteratedHashes : Prop :=
  ∀ (seed : List Byte) (n : Nat), 1 ≤ n →
    (genconst seed n).length = n ∧ (genconst seed n)[0]? = some 0 ∧
    ∀ i, 1 ≤ i → i < n → (genconst seed n)[i]? = some (be2int (Keccak.h256^[i + 1] seed) % Config.modulus)

/-- GENC (R141): BADCFG for an illegal round count, then for an illegal seed length; otherwise the whole table, CTN and CTV are
replaced by the constants of the seed bytes, and nothing else changes. -/
def Obligations.GencBuildsTheTable : Prop :=
  DecodesAs 0x20 (fun _ => .genc) (fun w => w = 0x20000000) ∧
  ∀ s : State,
    ((s.nrounds.toNat = 0 ∨ 256 < s.nrounds.toNat) → exec .genc s = .next (s.takeFault .badcfg 1)) ∧
    (1 ≤ s.nrounds.toNat → s.nrounds.toNat ≤ 256 → 128 < s.seedlen.toNat → exec .genc s = .next (s.takeFault .badcfg 2)) ∧
    (1 ≤ s.nrounds.toNat → s.nrounds.toNat ≤ 256 → s.seedlen.toNat ≤ 128 →
      ∃ t, exec .genc s = .next t ∧ t.answered 0 0 ∧ t.ctv = true ∧ t.ctn.toNat = s.nrounds.toNat ∧
        (∀ i, i < s.nrounds.toNat → some (t.readCt i).toNat =
          (genconst ((List.range s.seedlen.toNat).map s.readSm) s.nrounds.toNat)[i]?) ∧
        t = { s with ct := t.ct, ctv := t.ctv, ctn := t.ctn, port := t.port })

/-- RDC (R146): NOTREADY before BADARG, otherwise the entry, nothing written. -/
def Obligations.RdcReadsAConstant : Prop :=
  DecodesAs 0x21 (fun w => .rdc (immField w)) (fun w => rdField w = 0 ∧ raField w = 0 ∧ rbField w = 0) ∧
  ∀ (imm : Nat) (s : State),
    (s.ctv = false → exec (.rdc imm) s = .next (s.takeFault .notready 0)) ∧
    (s.ctv = true → s.ctn.toNat ≤ imm → exec (.rdc imm) s = .next (s.takeFault .badarg imm)) ∧
    (s.ctv = true → imm < s.ctn.toNat → exec (.rdc imm) s = .next { s with port := .answering ⟨0, s.readCt imm⟩ })

/-! ## The hash function H256 -/

/-- The hash but for its permutation (R160 to R163, R167): the padded message, byte by byte (the message, then `q` bytes: `0x81`, or
`0x01`, zeros and `0x80`), a multiple of 136 bytes; from the all-zero state each block enters lanes 0 to 16, eight bytes a lane,
least significant first, and the permutation follows; the digest is lanes 0 to 3 of the last state, least significant byte first. -/
def Obligations.PaddingAndDigestLengths : Prop :=
  ∀ m : List Byte,
    (Keccak.padded m).length = m.length + (136 - m.length % 136) ∧ (Keccak.padded m).length % 136 = 0 ∧
    m <+: Keccak.padded m ∧
    (136 - m.length % 136 = 1 → (Keccak.padded m)[m.length]? = some 0x81) ∧
    (2 ≤ 136 - m.length % 136 → (Keccak.padded m)[m.length]? = some 0x01 ∧
      (∀ j, m.length < j → j < m.length + (136 - m.length % 136) - 1 → (Keccak.padded m)[j]? = some 0x00) ∧
      (Keccak.padded m)[m.length + (136 - m.length % 136) - 1]? = some 0x80) ∧
    (Keccak.h256 m).length = 32 ∧
    ∃ s : Nat → Keccak.Lanes, s 0 = List.replicate 25 0 ∧
      (∀ b, b < (Keccak.padded m).length / 136 → ∃ x : Keccak.Lanes, x.length = 25 ∧ s (b + 1) = Keccak.keccakF x ∧
        (∀ i, i < 17 → x.getD i 0 = (s b).getD i 0 ^^^
          BitVec.ofNat 64 (le2int ((List.range 8).map fun j => (Keccak.padded m).getD (136 * b + 8 * i + j) 0))) ∧
        ∀ i, 17 ≤ i → i < 25 → x.getD i 0 = (s b).getD i 0) ∧
      ∀ i j, i < 4 → j < 8 → ((Keccak.h256 m).getD (8 * i + j) 0).toNat =
        ((s ((Keccak.padded m).length / 136)).getD i 0).toNat / 256 ^ j % 256

/-- The permutation of the hash (R164 to R166): `rol` is a rotation; one round is theta, rho and pi, chi and iota, lane by lane; the 24
rounds run in order, each with its constant; the rotation offsets (a line for each `x`) and the round constants (line `i`
has `RC[i]` and `RC[i + 12]`) are the tables'. -/
def Obligations.KeccakRunsItsRounds : Prop :=
  (∀ (v : Lane) (n : Nat), n < 64 → Keccak.rol v n = v.rotateLeft n) ∧
  (∀ (a : Keccak.Lanes) (rc : Lane), ∃ (c d : Nat → Lane) (a' b : Nat → Nat → Lane),
    (∀ x, x < 5 → c x = Keccak.lane a x 0 ^^^ Keccak.lane a x 1 ^^^ Keccak.lane a x 2 ^^^ Keccak.lane a x 3 ^^^ Keccak.lane a x 4) ∧
    (∀ x, x < 5 → d x = c ((x + 4) % 5) ^^^ Keccak.rol (c ((x + 1) % 5)) 1) ∧
    (∀ x y, x < 5 → y < 5 → a' x y = Keccak.lane a x y ^^^ d x) ∧
    (∀ x y, x < 5 → y < 5 → b y ((2 * x + 3 * y) % 5) = Keccak.rol (a' x y) (Keccak.rotations.getD (x + 5 * y) 0)) ∧
    (∀ x y, x < 5 → y < 5 → Keccak.lane (Keccak.keccakRound a rc) x y =
      (b x y ^^^ (~~~ b ((x + 1) % 5) y &&& b ((x + 2) % 5) y)) ^^^ (if x = 0 ∧ y = 0 then rc else 0))) ∧
  (∀ a : Keccak.Lanes, ∃ s : Nat → Keccak.Lanes, s 0 = a ∧
    (∀ ir, ir < 24 → s (ir + 1) = Keccak.keccakRound (s ir) (Keccak.roundConstants.getD ir 0)) ∧ Keccak.keccakF a = s 24) ∧
  (∀ (a : Keccak.Lanes) (x y : Nat), x < 5 → y < 5 → Keccak.lane a x y = a.getD (x + 5 * y) 0) ∧
  ((List.range 5).map fun x => (List.range 5).map fun y => Keccak.rotations.getD (x + 5 * y) 0) =
    [[0, 36, 3, 41, 18], [1, 44, 10, 45, 2], [62, 6, 43, 15, 61], [28, 55, 25, 21, 56], [27, 20, 39, 8, 14]] ∧
  Keccak.roundConstants.length = 24 ∧
  ∀ line ∈ ([ (0, 0x0000000000000001, 0x000000008000808B), (1, 0x0000000000008082, 0x800000000000008B),
      (2, 0x800000000000808A, 0x8000000000008089), (3, 0x8000000080008000, 0x8000000000008003),
      (4, 0x000000000000808B, 0x8000000000008002), (5, 0x0000000080000001, 0x8000000000000080),
      (6, 0x8000000080008081, 0x000000000000800A), (7, 0x8000000000008009, 0x800000008000000A),
      (8, 0x000000000000008A, 0x8000000080008081), (9, 0x0000000000000088, 0x8000000000008080),
      (10, 0x0000000080008009, 0x0000000080000001), (11, 0x000000008000000A, 0x8000000080008008) ] :
      List (Nat × Lane × Lane)),
    Keccak.roundConstants.getD line.1 0 = line.2.1 ∧ Keccak.roundConstants.getD (line.1 + 12) 0 = line.2.2

/-- `int2be32` and `be2int` are inverse to each other on 32-byte strings and words (R13, R142). -/
def Obligations.DigestBytesRoundTrip : Prop :=
  (∀ d : List Byte, d.length = 32 → int2be32 (be2int d) = d) ∧
  (∀ v, v < 2 ^ 256 → (int2be32 v).length = 32 ∧ be2int (int2be32 v) = v)

/-! ## Round permutation -/

/-- One round is the seventh power (R181, R16): the schedule computes `t^7 mod R`, and keeps 0, 1 and R - 1. -/
def Obligations.RoundIsTheSeventhPower : Prop :=
  (∀ t, t < Config.modulus → pow7 t = t ^ 7 % Config.modulus) ∧ pow7 0 = 0 ∧ pow7 1 = 1 ∧
  pow7 (Config.modulus - 1) = Config.modulus - 1

/-- The whole permutation by its rounds (R182): round 0 adds no constant, round `i` adds key and constant `i`, the key is added
at the end; `c[0]` is not read; the result is canonical. -/
def Obligations.PermuteRunsTheRounds : Prop :=
  (∀ (x k : Nat) (cs : List Nat), 1 ≤ cs.length → ∃ h : Nat → Nat, h 0 = pow7 (fadd x k) ∧
    (∀ i, i + 1 < cs.length → h (i + 1) = pow7 (fadd (fadd (h i) k) (cs.getD (i + 1) 0))) ∧
    permute x k cs = fadd (h (cs.length - 1)) k) ∧
  (∀ (x k c0 c0' : Nat) (cs : List Nat), permute x k (c0 :: cs) = permute x k (c0' :: cs)) ∧
  (∀ (x k : Nat) (cs : List Nat), permute x k cs < Config.modulus)

/-- For a fixed key and table the permutation is a bijection of `[0, R)` (R183). -/
def Obligations.PermuteIsABijection : Prop :=
  ∀ (k : Nat) (cs : List Nat), Set.BijOn (fun x => permute x k cs) (Set.Iio Config.modulus) (Set.Iio Config.modulus)

/-- PERM (R180): NOTREADY, then OOF for `x`, then for `k`; otherwise the permutation of `W[ra]` under the key `W[rb]` with the
entries `CT[0..CTN-1]`. -/
def Obligations.PermPermutes : Prop :=
  DecodesAs 0x30 (fun w => .perm (rdField w) (raField w) (rbField w)) (fun w => immField w = 0) ∧
  ∀ (rd ra rb : Reg) (s : State),
    (s.ctv = false → exec (.perm rd ra rb) s = .next (s.takeFault .notready 0)) ∧
    (s.ctv = true → Config.modulus ≤ (s.reg ra).toNat →
      exec (.perm rd ra rb) s = .next (s.takeFault .oof (0x8000 + ra.val))) ∧
    (s.ctv = true → (s.reg ra).toNat < Config.modulus → Config.modulus ≤ (s.reg rb).toNat →
      exec (.perm rd ra rb) s = .next (s.takeFault .oof (0x8000 + rb.val))) ∧
    (s.ctv = true → (s.reg ra).toNat < Config.modulus → (s.reg rb).toNat < Config.modulus →
      ∃ t, exec (.perm rd ra rb) s = .next t ∧ (t.reg rd).toNat = permute (s.reg ra).toNat (s.reg rb).toNat
          ((List.range s.ctn.toNat).map fun i => (s.readCt i).toNat) ∧
        (∀ q, q ≠ rd → t.reg q = s.reg q) ∧
        t = { s with w := t.w, port := .answering ⟨0, 0⟩ })

/-! ## Chaining hash and packer -/

/-- The chaining by its steps (R192): the running value is the permutation's key and a summand. The empty sequence gives the
key, one element gives `key + e + permute(e, key)` (R195). -/
def Obligations.MultihashChains : Prop :=
  (∀ (e : List Nat) (key : Nat) (c : List Nat), ∃ r : Nat → Nat, r 0 = key ∧
    (∀ j, j < e.length → r (j + 1) = fadd (fadd (r j) (e.getD j 0)) (permute (e.getD j 0) (r j) c)) ∧
    multihash e key c = r e.length) ∧
  (∀ (key : Nat) (c : List Nat), multihash [] key c = key) ∧
  (∀ (e key : Nat) (c : List Nat), multihash [e] key c = (key + e + permute e key c) % Config.modulus)

/-- HASHK (R193): NOTREADY, then BADARG, then OOF for the key, then OOF for the first out-of-field element; otherwise the
chaining hash of `EM[0..n-1]` under the key. -/
def Obligations.HashkHashesUnderAKey : Prop :=
  DecodesAs 0x40 (fun w => .hashk (rdField w) (raField w) (immField w)) (fun w => rbField w = 0) ∧
  ∀ (rd ra : Reg) (n : Nat) (s : State),
    (s.ctv = false → exec (.hashk rd ra n) s = .next (s.takeFault .notready 0)) ∧
    (s.ctv = true → 256 < n → exec (.hashk rd ra n) s = .next (s.takeFault .badarg n)) ∧
    (s.ctv = true → n ≤ 256 → Config.modulus ≤ (s.reg ra).toNat →
      exec (.hashk rd ra n) s = .next (s.takeFault .oof (0x8000 + ra.val))) ∧
    (∀ j, s.ctv = true → n ≤ 256 → (s.reg ra).toNat < Config.modulus → j < n → Config.modulus ≤ (s.readEm j).toNat →
      (∀ i, i < j → (s.readEm i).toNat < Config.modulus) → exec (.hashk rd ra n) s = .next (s.takeFault .oof j)) ∧
    (s.ctv = true → n ≤ 256 → (s.reg ra).toNat < Config.modulus → (∀ j, j < n → (s.readEm j).toNat < Config.modulus) →
      ∃ t, exec (.hashk rd ra n) s = .next t ∧ (t.reg rd).toNat =
        multihash ((List.range n).map fun j => (s.readEm j).toNat) (s.reg ra).toNat
          ((List.range s.ctn.toNat).map fun i => (s.readCt i).toNat) ∧
        (∀ q, q ≠ rd → t.reg q = s.reg q) ∧
        t = { s with w := t.w, port := .answering ⟨0, 0⟩ })

/-- HASHZ (R194): as HASHK with the initial key zero; the two agree, faults included, for a key register that holds 0. -/
def Obligations.HashzHashesUnderTheZeroKey : Prop :=
  DecodesAs 0x41 (fun w => .hashz (rdField w) (immField w)) (fun w => raField w = 0 ∧ rbField w = 0) ∧
  ∀ (rd : Reg) (n : Nat) (s : State),
    (s.ctv = false → exec (.hashz rd n) s = .next (s.takeFault .notready 0)) ∧
    (s.ctv = true → 256 < n → exec (.hashz rd n) s = .next (s.takeFault .badarg n)) ∧
    (∀ j, s.ctv = true → n ≤ 256 → j < n → Config.modulus ≤ (s.readEm j).toNat →
      (∀ i, i < j → (s.readEm i).toNat < Config.modulus) → exec (.hashz rd n) s = .next (s.takeFault .oof j)) ∧
    (s.ctv = true → n ≤ 256 → (∀ j, j < n → (s.readEm j).toNat < Config.modulus) →
      ∃ t, exec (.hashz rd n) s = .next t ∧ (t.reg rd).toNat =
        multihash ((List.range n).map fun j => (s.readEm j).toNat) 0
          ((List.range s.ctn.toNat).map fun i => (s.readCt i).toNat) ∧
        (∀ q, q ≠ rd → t.reg q = s.reg q) ∧
        t = { s with w := t.w, port := .answering ⟨0, 0⟩ }) ∧
    (∀ wk : Reg, s.reg wk = 0 → exec (.hashz rd n) s = exec (.hashk rd wk n) s)

/-- `pack(s)` (R200): `ceil(L / 31)` words, byte `s[31*j + t]` of weight `256^t` in word `j`, each word below `2^248`. -/
def Obligations.PackIsLittleEndianBy31 : Prop :=
  ∀ s : List Byte, (packBytes s).length = (s.length + 30) / 31 ∧
    ∀ j, j < (s.length + 30) / 31 →
      (packBytes s).getD j 0 =
        ∑ t ∈ Finset.range (min 31 (s.length - 31 * j)), (s.getD (31 * j + t) 0).toNat * 256 ^ t ∧
      (packBytes s).getD j 0 < 2 ^ 248 ∧ (packBytes s).getD j 0 < Config.modulus

/-- PACK (R201): the packed words of `BM[0..len-1]` go to `EM[0..m-1]`, the rest of EM and everything else is unchanged, and the
read data is `m`. -/
def Obligations.PackWritesTheElements : Prop :=
  DecodesAs 0x42 (fun w => .pack (immField w)) (fun w => rdField w = 0 ∧ raField w = 0 ∧ rbField w = 0) ∧
  ∀ (len : Nat) (s : State), len < 4096 →
    ∃ (t : State) (v : Word), exec (.pack len) s = .next t ∧ v.toNat = (len + 30) / 31 ∧
      t = { s with em := t.em, port := .answering ⟨0, v⟩ } ∧
      (∀ j, j < (len + 30) / 31 → some (t.readEm j).toNat = (packBytes ((List.range len).map s.readBm))[j]?) ∧
      (∀ j, (len + 30) / 31 ≤ j → t.readEm j = s.readEm j)

/-- HASHB (R202): NOTREADY, otherwise the zero-key hash of the packed bytes; EM is not written; the word written is the one that
PACK followed by HASHZ of the packed count writes. -/
def Obligations.HashbHashesTheBytes : Prop :=
  DecodesAs 0x43 (fun w => .hashb (rdField w) (immField w)) (fun w => raField w = 0 ∧ rbField w = 0) ∧
  ∀ (rd : Reg) (len : Nat) (s : State),
    (s.ctv = false → exec (.hashb rd len) s = .next (s.takeFault .notready 0)) ∧
    (s.ctv = true → len < 4096 →
      ∃ t, exec (.hashb rd len) s = .next t ∧ (t.reg rd).toNat = multihash (packBytes ((List.range len).map s.readBm)) 0
          ((List.range s.ctn.toNat).map fun i => (s.readCt i).toNat) ∧
        (∀ q, q ≠ rd → t.reg q = s.reg q) ∧
        t = { s with w := t.w, port := .answering ⟨0, 0⟩ } ∧
        ∃ p u : State, exec (.pack len) s = .next p ∧ exec (.hashz rd ((len + 30) / 31)) p = .next u ∧
          u.answered 0 0 ∧ u.reg rd = t.reg rd)

/-! ## Data movement -/

/-- LDW (R220): the write data, any word. -/
def Obligations.LdwLoadsTheWriteData : Prop :=
  DecodesAs 0x50 (fun w => .ldw (rdField w)) (fun w => raField w = 0 ∧ rbField w = 0 ∧ immField w = 0) ∧
  ∀ (rd : Reg) (w : BitVec 32) (d : Word) (s : State), s.port = .inFlight ⟨w, d⟩ →
    ∃ t, exec (.ldw rd) s = .next t ∧ t.reg rd = d ∧ (∀ q, q ≠ rd → t.reg q = s.reg q) ∧
      t = { s with w := t.w, port := .answering ⟨0, 0⟩ }

/-- RDW (R221): the register as stored, nothing written. -/
def Obligations.RdwReadsARegister : Prop :=
  DecodesAs 0x51 (fun w => .rdw (raField w)) (fun w => rdField w = 0 ∧ rbField w = 0 ∧ immField w = 0) ∧
  ∀ (ra : Reg) (s : State), exec (.rdw ra) s = .next { s with port := .answering ⟨0, s.reg ra⟩ }

/-- WRE (R222): `EM[imm]` becomes the write data and no other location changes; BADARG outside the memory. -/
def Obligations.WreWritesAnElement : Prop :=
  DecodesAs 0x52 (fun w => .wre (immField w)) (fun w => rdField w = 0 ∧ raField w = 0 ∧ rbField w = 0) ∧
  ∀ (imm : Nat) (w : BitVec 32) (d : Word) (s : State), s.port = .inFlight ⟨w, d⟩ →
    (256 ≤ imm → exec (.wre imm) s = .next (s.takeFault .badarg imm)) ∧
    (imm < 256 → ∃ t, exec (.wre imm) s = .next t ∧ t.readEm imm = d ∧ (∀ a, a ≠ imm → t.readEm a = s.readEm a) ∧
      t = { s with em := t.em, port := .answering ⟨0, 0⟩ })

/-- RDE (R223): `EM[imm]`, nothing written; BADARG outside the memory. -/
def Obligations.RdeReadsAnElement : Prop :=
  DecodesAs 0x53 (fun w => .rde (immField w)) (fun w => rdField w = 0 ∧ raField w = 0 ∧ rbField w = 0) ∧
  ∀ (imm : Nat) (s : State),
    (256 ≤ imm → exec (.rde imm) s = .next (s.takeFault .badarg imm)) ∧
    (imm < 256 → exec (.rde imm) s = .next { s with port := .answering ⟨0, s.readEm imm⟩ })

/-- WRB (R224): `BM[imm]` becomes `wdata[7:0]`, whatever the other bits, and no other location changes; every 12-bit index is
inside the memory. -/
def Obligations.WrbWritesAByte : Prop :=
  DecodesAs 0x54 (fun w => .wrb (immField w)) (fun w => rdField w = 0 ∧ raField w = 0 ∧ rbField w = 0) ∧
  ∀ (imm : Nat) (w : BitVec 32) (d : Word) (s : State), s.port = .inFlight ⟨w, d⟩ → imm < 4096 →
    ∃ t, exec (.wrb imm) s = .next t ∧ (t.readBm imm).toNat = d.toNat % 256 ∧ (∀ a, a ≠ imm → t.readBm a = s.readBm a) ∧
      t = { s with bm := t.bm, port := .answering ⟨0, 0⟩ }

/-- RDB (R225): `BM[imm]` in `rdata[7:0]`, the other bits 0, nothing written. -/
def Obligations.RdbReadsAByte : Prop :=
  DecodesAs 0x55 (fun w => .rdb (immField w)) (fun w => rdField w = 0 ∧ raField w = 0 ∧ rbField w = 0) ∧
  ∀ (imm : Nat) (s : State), imm < 4096 →
    ∃ v : Word, v.toNat = (s.readBm imm).toNat ∧ exec (.rdb imm) s = .next { s with port := .answering ⟨0, v⟩ }

/-- WRS (R226): `SM[imm]` becomes `wdata[7:0]`; SEEDLEN and the table stay; BADARG outside the memory. -/
def Obligations.WrsWritesASeedByte : Prop :=
  DecodesAs 0x56 (fun w => .wrs (immField w)) (fun w => rdField w = 0 ∧ raField w = 0 ∧ rbField w = 0) ∧
  ∀ (imm : Nat) (w : BitVec 32) (d : Word) (s : State), s.port = .inFlight ⟨w, d⟩ →
    (128 ≤ imm → exec (.wrs imm) s = .next (s.takeFault .badarg imm)) ∧
    (imm < 128 → ∃ t, exec (.wrs imm) s = .next t ∧ (t.readSm imm).toNat = d.toNat % 256 ∧
      (∀ a, a ≠ imm → t.readSm a = s.readSm a) ∧ t = { s with sm := t.sm, port := .answering ⟨0, 0⟩ })

/-- RDS (R227): `SM[imm]`, zero-extended, nothing written; BADARG outside the memory. -/
def Obligations.RdsReadsASeedByte : Prop :=
  DecodesAs 0x57 (fun w => .rds (immField w)) (fun w => rdField w = 0 ∧ raField w = 0 ∧ rbField w = 0) ∧
  ∀ (imm : Nat) (s : State),
    (128 ≤ imm → exec (.rds imm) s = .next (s.takeFault .badarg imm)) ∧
    (imm < 128 → ∃ v : Word, v.toNat = (s.readSm imm).toNat ∧ exec (.rds imm) s = .next { s with port := .answering ⟨0, v⟩ })

/-- LDE (R228): `W[rd]` becomes `EM[imm]`, unchecked; BADARG outside the memory. -/
def Obligations.LdeLoadsAnElement : Prop :=
  DecodesAs 0x58 (fun w => .lde (rdField w) (immField w)) (fun w => raField w = 0 ∧ rbField w = 0) ∧
  ∀ (rd : Reg) (imm : Nat) (s : State),
    (256 ≤ imm → exec (.lde rd imm) s = .next (s.takeFault .badarg imm)) ∧
    (imm < 256 → ∃ t, exec (.lde rd imm) s = .next t ∧ t.reg rd = s.readEm imm ∧ (∀ q, q ≠ rd → t.reg q = s.reg q) ∧
      t = { s with w := t.w, port := .answering ⟨0, 0⟩ })

/-- STE (R229): `EM[imm]` becomes `W[ra]`, unchecked, and no other location changes; BADARG outside the memory. -/
def Obligations.SteStoresARegister : Prop :=
  DecodesAs 0x59 (fun w => .ste (raField w) (immField w)) (fun w => rdField w = 0 ∧ rbField w = 0) ∧
  ∀ (ra : Reg) (imm : Nat) (s : State),
    (256 ≤ imm → exec (.ste ra imm) s = .next (s.takeFault .badarg imm)) ∧
    (imm < 256 → ∃ t, exec (.ste ra imm) s = .next t ∧ t.readEm imm = s.reg ra ∧ (∀ a, a ≠ imm → t.readEm a = s.readEm a) ∧
      t = { s with em := t.em, port := .answering ⟨0, 0⟩ })

/-! ## Control -/

/-- CSRR (R250): each of the ten registers by its number, zero-extended, nothing written; BADCSR for any other number. -/
def Obligations.CsrrReadsTheTenRegisters : Prop :=
  DecodesAs 0x60 (fun w => .csrr (immField w)) (fun w => rdField w = 0 ∧ raField w = 0 ∧ rbField w = 0) ∧
  ∀ s : State,
    (∀ p ∈ [(0x000, 0x4D433701), (0x001, s.ctv.toNat + 2 * (if s.esticky ≠ 0 then 1 else 0)), (0x002, s.eie.toNat),
        (0x003, s.nrounds.toNat), (0x004, s.seedlen.toNat), (0x005, s.ctn.toNat), (0x006, s.ecause.toNat),
        (0x007, s.einfo.toNat), (0x008, s.esticky.toNat), (0x009, Config.modulus)],
      ∃ v : Word, v.toNat = p.2 ∧ exec (.csrr p.1) s = .next { s with port := .answering ⟨0, v⟩ }) ∧
    (∀ imm, 0x00A ≤ imm → exec (.csrr imm) s = .next (s.takeFault .badcsr imm))

/-- CSRW (R251): EIE, NROUNDS and SEEDLEN take the low bits of the write data, the rest is ignored; BADCSR for every other number. -/
def Obligations.CsrwWritesTheThreeRegisters : Prop :=
  DecodesAs 0x61 (fun w => .csrw (immField w)) (fun w => rdField w = 0 ∧ raField w = 0 ∧ rbField w = 0) ∧
  ∀ (w : BitVec 32) (d : Word) (s : State), s.port = .inFlight ⟨w, d⟩ →
    (∃ b : Bool, b.toNat = d.toNat % 2 ∧ exec (.csrw 2) s = .next { s with eie := b, port := .answering ⟨0, 0⟩ }) ∧
    (∃ n : BitVec 16, n.toNat = d.toNat % 65536 ∧
      exec (.csrw 3) s = .next { s with nrounds := n, port := .answering ⟨0, 0⟩ }) ∧
    (∃ l : BitVec 8, l.toNat = d.toNat % 256 ∧
      exec (.csrw 4) s = .next { s with seedlen := l, port := .answering ⟨0, 0⟩ }) ∧
    (∀ imm, imm ≠ 2 → imm ≠ 3 → imm ≠ 4 → exec (.csrw imm) s = .next (s.takeFault .badcsr imm))

/-- CLRE (R252): the record is cleared, nothing else changes; STATUS.ERR then reads 0 and `irq` is low. No other command lowers a
bit of ESTICKY, and no command but CSRR, which reads it, does anything that depends on the record. -/
def Obligations.ClreClearsTheRecord : Prop :=
  DecodesAs 0x62 (fun _ => .clre) (fun w => w = 0x62000000) ∧
  (∀ s : State, ∃ t, exec .clre s = .next t ∧
    t = { s with ecause := 0, einfo := 0, esticky := 0, port := .answering ⟨0, 0⟩ } ∧ t.err = false ∧ t.irq = false) ∧
  (∀ (i : Instr) (s t : State) (b : Nat), i ≠ .clre → exec i s = .next t → s.esticky.getLsbD b = true → t.esticky.getLsbD b = true) ∧
  ∀ (i : Instr) (s : State) (c : BitVec 4) (n e : BitVec 16), (∀ imm, i ≠ .csrr imm) →
    ∃ t t' : State, exec i s = .next t ∧ exec i { s with ecause := c, einfo := n, esticky := e } = .next t' ∧
      t' = { t with ecause := t'.ecause, einfo := t'.einfo, esticky := t'.esticky }
end

