-- ==== Sys2Proof/Laws/Encoding.lean ====
section
/-! SUPPORT. What the fields of a command word are. -/

namespace Sys2Proof

variable (op : Nat) (rd ra rb : Reg) (imm : Nat)

theorem commandWord_toNat (ho : op < 256) (hi : imm < 4096) :
    (commandWord op rd ra rb imm).toNat = op * 2 ^ 24 + rd.val * 2 ^ 20 + ra.val * 2 ^ 16 + rb.val * 2 ^ 12 + imm := by
  unfold commandWord
  rw [BitVec.toNat_ofNat]
  omega

theorem opField_commandWord (ho : op < 256) (hi : imm < 4096) : opField (commandWord op rd ra rb imm) = op := by
  unfold opField
  rw [commandWord_toNat op rd ra rb imm ho hi]
  omega

theorem rdField_commandWord (ho : op < 256) (hi : imm < 4096) : rdField (commandWord op rd ra rb imm) = rd := by
  apply Fin.ext
  unfold rdField
  rw [commandWord_toNat op rd ra rb imm ho hi]
  simp only [Fin.ofNat]
  omega

theorem raField_commandWord (ho : op < 256) (hi : imm < 4096) : raField (commandWord op rd ra rb imm) = ra := by
  apply Fin.ext
  unfold raField
  rw [commandWord_toNat op rd ra rb imm ho hi]
  simp only [Fin.ofNat]
  omega

theorem rbField_commandWord (ho : op < 256) (hi : imm < 4096) : rbField (commandWord op rd ra rb imm) = rb := by
  apply Fin.ext
  unfold rbField
  rw [commandWord_toNat op rd ra rb imm ho hi]
  simp only [Fin.ofNat]
  omega

theorem immField_commandWord (ho : op < 256) (hi : imm < 4096) : immField (commandWord op rd ra rb imm) = imm := by
  unfold immField
  rw [commandWord_toNat op rd ra rb imm ho hi]
  omega

/-- A word is the layout of its own fields (R91). -/
theorem commandWord_fields (w : BitVec 32) :
    commandWord (opField w) (rdField w) (raField w) (rbField w) (immField w) = w := by
  apply BitVec.eq_of_toNat_eq
  have h32 := w.isLt
  have ho : opField w < 256 := by unfold opField; omega
  have hi : immField w < 4096 := by unfold immField; omega
  rw [commandWord_toNat _ _ _ _ _ ho hi]
  simp only [opField, rdField, raField, rbField, immField, Fin.ofNat]
  omega

/-- Decoding once the row of the opcode is known: the unused fields decide (R94). -/
theorem decode_of_row {w : BitVec 32} {f : Format} {i : Instr}
    (h : commandOf (opField w) (rdField w) (raField w) (rbField w) (immField w) = some (f, i)) :
    decode w = if f.unusedZero w then .ok i else .error (.nonzeroUnusedField (opField w)) := by
  unfold decode
  rw [h]

/-- Decoding an unassigned opcode (R94). -/
theorem decode_of_no_row {w : BitVec 32}
    (h : commandOf (opField w) (rdField w) (raField w) (rbField w) (immField w) = none) :
    decode w = .error (.unassignedOpcode (opField w)) := by
  unfold decode
  rw [h]

/-- An opcode is an 8-bit value (R91). -/
theorem opcode_lt (i : Instr) : i.opcode < 256 := by cases i <;> simp [Instr.opcode]

end Sys2Proof
end

