-- ==== Sys2Proof/Laws/Memory.lean ====
section
/-! SUPPORT. The laws of the memories: a read after a write, and the canonical form that every memory operation keeps. -/

namespace Sys2Proof.Machine

variable {n : Nat} (d : Nat → BitVec n)

/-! ## Reading -/

@[simp] theorem Mem.read_nil (a : Nat) : Mem.read d [] a = d a := rfl

theorem Mem.read_cons (c : Nat × BitVec n) (m : Mem n) (a : Nat) :
    Mem.read d (c :: m) a = if a = c.1 then c.2 else Mem.read d m a := rfl

theorem Mem.read_insert (m : Mem n) (a : Nat) (v : BitVec n) (b : Nat) :
    Mem.read d (Mem.insert m a v) b = if b = a then v else Mem.read d m b := by
  induction m with
  | nil => rfl
  | cons c m ih =>
    unfold Mem.insert
    split
    · rfl
    · split
      · next h => subst h; simp only [Mem.read_cons]; split <;> rfl
      · next h1 h2 =>
        simp only [Mem.read_cons, ih]
        by_cases hb : b = c.1
        · subst hb; simp [Ne.symm h2]
        · simp [hb]

theorem Mem.read_erase (m : Mem n) (a b : Nat) :
    Mem.read d (Mem.erase m a) b = if b = a then d a else Mem.read d m b := by
  induction m with
  | nil => by_cases h : b = a <;> simp [Mem.erase, h]
  | cons c m ih =>
    unfold Mem.erase at ih ⊢
    by_cases hc : c.1 = a
    · subst hc
      simp only [ne_eq, not_true_eq_false, decide_false, Bool.false_eq_true, not_false_eq_true, List.filter_cons_of_neg, ih,
        Mem.read_cons]
      split <;> rfl
    · rw [List.filter_cons_of_pos (by simpa using hc), Mem.read_cons, Mem.read_cons, ih]
      by_cases hb : b = c.1
      · subst hb; simp [hc]
      · simp [hb]

/-- A read after a write: the value written at its address, every other location as before. -/
theorem Mem.read_write (m : Mem n) (a : Nat) (v : BitVec n) (b : Nat) :
    Mem.read d (Mem.write d m a v) b = if b = a then v else Mem.read d m b := by
  unfold Mem.write
  split
  · next h => subst h; exact Mem.read_erase d m a b
  · exact Mem.read_insert d m a v b

/-- A read after a run of writes: inside the run the value written there, elsewhere as before. -/
theorem Mem.read_writeFrom (m : Mem n) (a : Nat) (vs : List (BitVec n)) (b : Nat) :
    Mem.read d (Mem.writeFrom d m a vs) b = if a ≤ b then (vs[b - a]?).getD (Mem.read d m b) else Mem.read d m b := by
  induction vs generalizing m a with
  | nil => simp [Mem.writeFrom]
  | cons v vs ih =>
    rw [Mem.writeFrom, ih, Mem.read_write]
    by_cases hb : b = a
    · subst hb; simp
    · by_cases hlt : a ≤ b
      · have h1 : a + 1 ≤ b := by omega
        have h2 : b - a = (b - (a + 1)) + 1 := by omega
        simp [hb, hlt, h1, h2]
      · simp [hb, hlt, show ¬ (a + 1 ≤ b) by omega]

/-! ## The canonical form -/

theorem Mem.wf_nil (depth : Nat) : Mem.wf d depth ([] : Mem n) := by simp [Mem.wf]

theorem Mem.mem_insert {m : Mem n} {a : Nat} {v : BitVec n} {c : Nat × BitVec n} (h : c ∈ Mem.insert m a v) :
    c = (a, v) ∨ c ∈ m := by
  induction m with
  | nil => simpa [Mem.insert] using h
  | cons e m ih =>
    unfold Mem.insert at h
    split at h
    · simpa using h
    · split at h
      · rcases List.mem_cons.mp h with h | h
        · exact .inl h
        · exact .inr (List.mem_cons_of_mem _ h)
      · rcases List.mem_cons.mp h with h | h
        · exact .inr (h ▸ List.mem_cons_self)
        · exact (ih h).imp id (List.mem_cons_of_mem _)

theorem Mem.rising_insert {m : Mem n} (h : (m.map Prod.fst).Pairwise (· < ·)) (a : Nat) (v : BitVec n) :
    ((Mem.insert m a v).map Prod.fst).Pairwise (· < ·) := by
  induction m with
  | nil => simp [Mem.insert]
  | cons c m ih =>
    rw [List.map_cons, List.pairwise_cons] at h
    unfold Mem.insert
    split
    · next hlt =>
      simp only [List.map_cons, List.pairwise_cons, List.mem_cons]
      refine ⟨?_, h.1, h.2⟩
      rintro x (rfl | hx)
      · exact hlt
      · exact lt_trans hlt (h.1 x hx)
    · split
      · next heq =>
        simp only [List.map_cons, List.pairwise_cons]
        exact ⟨heq ▸ h.1, h.2⟩
      · next h1 h2 =>
        simp only [List.map_cons, List.pairwise_cons]
        refine ⟨?_, ih h.2⟩
        intro x hx
        obtain ⟨e, he, rfl⟩ := List.mem_map.mp hx
        rcases Mem.mem_insert he with rfl | he
        · simp only; omega
        · exact h.1 _ (List.mem_map_of_mem he)

/-- A write inside the memory keeps the canonical form. -/
theorem Mem.wf_write {depth : Nat} {m : Mem n} (h : Mem.wf d depth m) {a : Nat} (ha : a < depth) (v : BitVec n) :
    Mem.wf d depth (Mem.write d m a v) := by
  obtain ⟨hs, hm⟩ := h
  unfold Mem.write
  split
  · refine ⟨hs.sublist (List.Sublist.map _ List.filter_sublist), fun c hc => hm c (List.mem_of_mem_filter hc)⟩
  · next hv =>
    refine ⟨Mem.rising_insert hs a v, fun c hc => ?_⟩
    rcases Mem.mem_insert hc with rfl | hc
    · exact ⟨ha, hv⟩
    · exact hm c hc

/-- A run of writes inside the memory keeps the canonical form. -/
theorem Mem.wf_writeFrom {depth : Nat} (vs : List (BitVec n)) : ∀ {m : Mem n} {a : Nat}, Mem.wf d depth m →
    a + vs.length ≤ depth → Mem.wf d depth (Mem.writeFrom d m a vs) := by
  induction vs with
  | nil => intro m a h _; exact h
  | cons v vs ih =>
    intro m a h hl
    rw [List.length_cons] at hl
    exact ih (Mem.wf_write d h (by omega) v) (by omega)

/-- A memory made from a list of values has the canonical form. -/
theorem Mem.wf_ofValues (depth : Nat) (vs : List (BitVec n)) : Mem.wf d depth (Mem.ofValues d depth vs) :=
  Mem.wf_writeFrom d _ (Mem.wf_nil d depth) (by simp)

/-- The memories of the reset state have the canonical form. -/
theorem State.reset_memories :
    Mem.wf wordUnlisted Config.emDepth State.reset.em ∧ Mem.wf byteUnlisted Config.bmDepth State.reset.bm ∧
    Mem.wf seedUnlisted Config.smDepth State.reset.sm ∧ Mem.wf wordUnlisted Config.nrMax State.reset.ct :=
  ⟨Mem.wf_nil _ _, Mem.wf_nil _ _, Mem.wf_nil _ _, Mem.wf_nil _ _⟩

/-- Two memories in canonical form that read alike are equal. -/
theorem Mem.eq_of_read_eq {depth : Nat} {m m' : Mem n} (h : Mem.wf d depth m) (h' : Mem.wf d depth m')
    (hr : ∀ a, Mem.read d m a = Mem.read d m' a) : m = m' := by
  have below : ∀ (m : Mem n) (a : Nat), (∀ x ∈ m.map Prod.fst, a < x) → Mem.read d m a = d a := by
    intro m a hm
    induction m with
    | nil => rfl
    | cons c m ih =>
      rw [Mem.read_cons, if_neg (by have := hm c.1 (by simp); omega)]
      exact ih fun x hx => hm x (List.mem_cons_of_mem _ hx)
  have rest : ∀ {c : Nat × BitVec n} {m : Mem n}, Mem.wf d depth (c :: m) → Mem.wf d depth m ∧ ∀ x ∈ m.map Prod.fst, c.1 < x := by
    intro c m hw
    have hp := hw.1
    rw [List.map_cons, List.pairwise_cons] at hp
    exact ⟨⟨hp.2, fun e he => hw.2 e (List.mem_cons_of_mem _ he)⟩, hp.1⟩
  induction m generalizing m' with
  | nil =>
    cases m' with
    | nil => rfl
    | cons c m' =>
      have := hr c.1
      rw [Mem.read_cons, if_pos rfl, Mem.read_nil] at this
      exact absurd this.symm (h'.2 c (by simp)).2
  | cons c m ih =>
    cases m' with
    | nil =>
      have := hr c.1
      rw [Mem.read_cons, if_pos rfl, Mem.read_nil] at this
      exact absurd this (h.2 c (by simp)).2
    | cons c' m' =>
      obtain ⟨hw, hb⟩ := rest h
      obtain ⟨hw', hb'⟩ := rest h'
      have hfst : c.1 = c'.1 := by
        rcases lt_trichotomy c.1 c'.1 with hlt | heq | hlt
        · have := hr c.1
          rw [Mem.read_cons, if_pos rfl, Mem.read_cons, if_neg (by omega), below m' c.1 fun x hx => lt_trans hlt (hb' x hx)] at this
          exact absurd this (h.2 c (by simp)).2
        · exact heq
        · have := hr c'.1
          rw [Mem.read_cons, if_neg (by omega), Mem.read_cons, if_pos rfl, below m c'.1 fun x hx => lt_trans hlt (hb x hx)] at this
          exact absurd this.symm (h'.2 c' (by simp)).2
      have hsnd : c.2 = c'.2 := by
        have := hr c.1
        rwa [Mem.read_cons, if_pos rfl, Mem.read_cons, if_pos hfst] at this
      have hc : c = c' := Prod.ext hfst hsnd
      subst hc
      congr 1
      refine ih hw hw' fun a => ?_
      by_cases ha : a = c.1
      · subst ha; rw [below m _ hb, below m' _ hb']
      · have := hr a
        rwa [Mem.read_cons, if_neg ha, Mem.read_cons, if_neg ha] at this

end Sys2Proof.Machine
end

