-- ==== Sys2Proof/Laws/State.lean ====
section
/-! SUPPORT. What each update of the state does to each field: one lemma per field per update, true by `rfl`. -/

namespace Sys2Proof.Machine

/-! ## `State.writeEm` -/

@[simp] theorem State.writeEm_w (s : State) (a : Nat) (v : Word) : (s.writeEm a v).w = s.w := rfl
@[simp] theorem State.writeEm_em (s : State) (a : Nat) (v : Word) : (s.writeEm a v).em = s.em.write wordUnlisted a v := rfl
@[simp] theorem State.writeEm_bm (s : State) (a : Nat) (v : Word) : (s.writeEm a v).bm = s.bm := rfl
@[simp] theorem State.writeEm_sm (s : State) (a : Nat) (v : Word) : (s.writeEm a v).sm = s.sm := rfl
@[simp] theorem State.writeEm_ct (s : State) (a : Nat) (v : Word) : (s.writeEm a v).ct = s.ct := rfl
@[simp] theorem State.writeEm_ctv (s : State) (a : Nat) (v : Word) : (s.writeEm a v).ctv = s.ctv := rfl
@[simp] theorem State.writeEm_ctn (s : State) (a : Nat) (v : Word) : (s.writeEm a v).ctn = s.ctn := rfl
@[simp] theorem State.writeEm_nrounds (s : State) (a : Nat) (v : Word) : (s.writeEm a v).nrounds = s.nrounds := rfl
@[simp] theorem State.writeEm_seedlen (s : State) (a : Nat) (v : Word) : (s.writeEm a v).seedlen = s.seedlen := rfl
@[simp] theorem State.writeEm_eie (s : State) (a : Nat) (v : Word) : (s.writeEm a v).eie = s.eie := rfl
@[simp] theorem State.writeEm_ecause (s : State) (a : Nat) (v : Word) : (s.writeEm a v).ecause = s.ecause := rfl
@[simp] theorem State.writeEm_einfo (s : State) (a : Nat) (v : Word) : (s.writeEm a v).einfo = s.einfo := rfl
@[simp] theorem State.writeEm_esticky (s : State) (a : Nat) (v : Word) : (s.writeEm a v).esticky = s.esticky := rfl
@[simp] theorem State.writeEm_port (s : State) (a : Nat) (v : Word) : (s.writeEm a v).port = s.port := rfl
@[simp] theorem State.writeEm_offer (s : State) (a : Nat) (v : Word) : (s.writeEm a v).offer = s.offer := rfl
@[simp] theorem State.writeEm_script (s : State) (a : Nat) (v : Word) : (s.writeEm a v).script = s.script := rfl
@[simp] theorem State.writeEm_taken (s : State) (a : Nat) (v : Word) : (s.writeEm a v).taken = s.taken := rfl

/-! ## `State.writeEmAll` -/

@[simp] theorem State.writeEmAll_w (s : State) (vs : List Word) : (s.writeEmAll vs).w = s.w := rfl
@[simp] theorem State.writeEmAll_em (s : State) (vs : List Word) : (s.writeEmAll vs).em = s.em.writeFrom wordUnlisted 0 vs := rfl
@[simp] theorem State.writeEmAll_bm (s : State) (vs : List Word) : (s.writeEmAll vs).bm = s.bm := rfl
@[simp] theorem State.writeEmAll_sm (s : State) (vs : List Word) : (s.writeEmAll vs).sm = s.sm := rfl
@[simp] theorem State.writeEmAll_ct (s : State) (vs : List Word) : (s.writeEmAll vs).ct = s.ct := rfl
@[simp] theorem State.writeEmAll_ctv (s : State) (vs : List Word) : (s.writeEmAll vs).ctv = s.ctv := rfl
@[simp] theorem State.writeEmAll_ctn (s : State) (vs : List Word) : (s.writeEmAll vs).ctn = s.ctn := rfl
@[simp] theorem State.writeEmAll_nrounds (s : State) (vs : List Word) : (s.writeEmAll vs).nrounds = s.nrounds := rfl
@[simp] theorem State.writeEmAll_seedlen (s : State) (vs : List Word) : (s.writeEmAll vs).seedlen = s.seedlen := rfl
@[simp] theorem State.writeEmAll_eie (s : State) (vs : List Word) : (s.writeEmAll vs).eie = s.eie := rfl
@[simp] theorem State.writeEmAll_ecause (s : State) (vs : List Word) : (s.writeEmAll vs).ecause = s.ecause := rfl
@[simp] theorem State.writeEmAll_einfo (s : State) (vs : List Word) : (s.writeEmAll vs).einfo = s.einfo := rfl
@[simp] theorem State.writeEmAll_esticky (s : State) (vs : List Word) : (s.writeEmAll vs).esticky = s.esticky := rfl
@[simp] theorem State.writeEmAll_port (s : State) (vs : List Word) : (s.writeEmAll vs).port = s.port := rfl
@[simp] theorem State.writeEmAll_offer (s : State) (vs : List Word) : (s.writeEmAll vs).offer = s.offer := rfl
@[simp] theorem State.writeEmAll_script (s : State) (vs : List Word) : (s.writeEmAll vs).script = s.script := rfl
@[simp] theorem State.writeEmAll_taken (s : State) (vs : List Word) : (s.writeEmAll vs).taken = s.taken := rfl

/-! ## `State.writeBm` -/

@[simp] theorem State.writeBm_w (s : State) (a : Nat) (b : Byte) : (s.writeBm a b).w = s.w := rfl
@[simp] theorem State.writeBm_em (s : State) (a : Nat) (b : Byte) : (s.writeBm a b).em = s.em := rfl
@[simp] theorem State.writeBm_bm (s : State) (a : Nat) (b : Byte) : (s.writeBm a b).bm = s.bm.write byteUnlisted a b := rfl
@[simp] theorem State.writeBm_sm (s : State) (a : Nat) (b : Byte) : (s.writeBm a b).sm = s.sm := rfl
@[simp] theorem State.writeBm_ct (s : State) (a : Nat) (b : Byte) : (s.writeBm a b).ct = s.ct := rfl
@[simp] theorem State.writeBm_ctv (s : State) (a : Nat) (b : Byte) : (s.writeBm a b).ctv = s.ctv := rfl
@[simp] theorem State.writeBm_ctn (s : State) (a : Nat) (b : Byte) : (s.writeBm a b).ctn = s.ctn := rfl
@[simp] theorem State.writeBm_nrounds (s : State) (a : Nat) (b : Byte) : (s.writeBm a b).nrounds = s.nrounds := rfl
@[simp] theorem State.writeBm_seedlen (s : State) (a : Nat) (b : Byte) : (s.writeBm a b).seedlen = s.seedlen := rfl
@[simp] theorem State.writeBm_eie (s : State) (a : Nat) (b : Byte) : (s.writeBm a b).eie = s.eie := rfl
@[simp] theorem State.writeBm_ecause (s : State) (a : Nat) (b : Byte) : (s.writeBm a b).ecause = s.ecause := rfl
@[simp] theorem State.writeBm_einfo (s : State) (a : Nat) (b : Byte) : (s.writeBm a b).einfo = s.einfo := rfl
@[simp] theorem State.writeBm_esticky (s : State) (a : Nat) (b : Byte) : (s.writeBm a b).esticky = s.esticky := rfl
@[simp] theorem State.writeBm_port (s : State) (a : Nat) (b : Byte) : (s.writeBm a b).port = s.port := rfl
@[simp] theorem State.writeBm_offer (s : State) (a : Nat) (b : Byte) : (s.writeBm a b).offer = s.offer := rfl
@[simp] theorem State.writeBm_script (s : State) (a : Nat) (b : Byte) : (s.writeBm a b).script = s.script := rfl
@[simp] theorem State.writeBm_taken (s : State) (a : Nat) (b : Byte) : (s.writeBm a b).taken = s.taken := rfl

/-! ## `State.writeSm` -/

@[simp] theorem State.writeSm_w (s : State) (a : Nat) (b : Byte) : (s.writeSm a b).w = s.w := rfl
@[simp] theorem State.writeSm_em (s : State) (a : Nat) (b : Byte) : (s.writeSm a b).em = s.em := rfl
@[simp] theorem State.writeSm_bm (s : State) (a : Nat) (b : Byte) : (s.writeSm a b).bm = s.bm := rfl
@[simp] theorem State.writeSm_sm (s : State) (a : Nat) (b : Byte) : (s.writeSm a b).sm = s.sm.write seedUnlisted a b := rfl
@[simp] theorem State.writeSm_ct (s : State) (a : Nat) (b : Byte) : (s.writeSm a b).ct = s.ct := rfl
@[simp] theorem State.writeSm_ctv (s : State) (a : Nat) (b : Byte) : (s.writeSm a b).ctv = s.ctv := rfl
@[simp] theorem State.writeSm_ctn (s : State) (a : Nat) (b : Byte) : (s.writeSm a b).ctn = s.ctn := rfl
@[simp] theorem State.writeSm_nrounds (s : State) (a : Nat) (b : Byte) : (s.writeSm a b).nrounds = s.nrounds := rfl
@[simp] theorem State.writeSm_seedlen (s : State) (a : Nat) (b : Byte) : (s.writeSm a b).seedlen = s.seedlen := rfl
@[simp] theorem State.writeSm_eie (s : State) (a : Nat) (b : Byte) : (s.writeSm a b).eie = s.eie := rfl
@[simp] theorem State.writeSm_ecause (s : State) (a : Nat) (b : Byte) : (s.writeSm a b).ecause = s.ecause := rfl
@[simp] theorem State.writeSm_einfo (s : State) (a : Nat) (b : Byte) : (s.writeSm a b).einfo = s.einfo := rfl
@[simp] theorem State.writeSm_esticky (s : State) (a : Nat) (b : Byte) : (s.writeSm a b).esticky = s.esticky := rfl
@[simp] theorem State.writeSm_port (s : State) (a : Nat) (b : Byte) : (s.writeSm a b).port = s.port := rfl
@[simp] theorem State.writeSm_offer (s : State) (a : Nat) (b : Byte) : (s.writeSm a b).offer = s.offer := rfl
@[simp] theorem State.writeSm_script (s : State) (a : Nat) (b : Byte) : (s.writeSm a b).script = s.script := rfl
@[simp] theorem State.writeSm_taken (s : State) (a : Nat) (b : Byte) : (s.writeSm a b).taken = s.taken := rfl

/-! ## `State.setTable` -/

@[simp] theorem State.setTable_w (s : State) (c : List Word) : (s.setTable c).w = s.w := rfl
@[simp] theorem State.setTable_em (s : State) (c : List Word) : (s.setTable c).em = s.em := rfl
@[simp] theorem State.setTable_bm (s : State) (c : List Word) : (s.setTable c).bm = s.bm := rfl
@[simp] theorem State.setTable_sm (s : State) (c : List Word) : (s.setTable c).sm = s.sm := rfl
@[simp] theorem State.setTable_ct (s : State) (c : List Word) : (s.setTable c).ct = Mem.writeFrom wordUnlisted [] 0 c := rfl
@[simp] theorem State.setTable_ctv (s : State) (c : List Word) : (s.setTable c).ctv = true := rfl
@[simp] theorem State.setTable_ctn (s : State) (c : List Word) : (s.setTable c).ctn = BitVec.ofNat 9 c.length := rfl
@[simp] theorem State.setTable_nrounds (s : State) (c : List Word) : (s.setTable c).nrounds = s.nrounds := rfl
@[simp] theorem State.setTable_seedlen (s : State) (c : List Word) : (s.setTable c).seedlen = s.seedlen := rfl
@[simp] theorem State.setTable_eie (s : State) (c : List Word) : (s.setTable c).eie = s.eie := rfl
@[simp] theorem State.setTable_ecause (s : State) (c : List Word) : (s.setTable c).ecause = s.ecause := rfl
@[simp] theorem State.setTable_einfo (s : State) (c : List Word) : (s.setTable c).einfo = s.einfo := rfl
@[simp] theorem State.setTable_esticky (s : State) (c : List Word) : (s.setTable c).esticky = s.esticky := rfl
@[simp] theorem State.setTable_port (s : State) (c : List Word) : (s.setTable c).port = s.port := rfl
@[simp] theorem State.setTable_offer (s : State) (c : List Word) : (s.setTable c).offer = s.offer := rfl
@[simp] theorem State.setTable_script (s : State) (c : List Word) : (s.setTable c).script = s.script := rfl
@[simp] theorem State.setTable_taken (s : State) (c : List Word) : (s.setTable c).taken = s.taken := rfl

/-! ## `State.setReg` -/

@[simp] theorem State.setReg_w (s : State) (r : Reg) (v : Word) : (s.setReg r v).w = s.w.set r.val v r.isLt := rfl
@[simp] theorem State.setReg_em (s : State) (r : Reg) (v : Word) : (s.setReg r v).em = s.em := rfl
@[simp] theorem State.setReg_bm (s : State) (r : Reg) (v : Word) : (s.setReg r v).bm = s.bm := rfl
@[simp] theorem State.setReg_sm (s : State) (r : Reg) (v : Word) : (s.setReg r v).sm = s.sm := rfl
@[simp] theorem State.setReg_ct (s : State) (r : Reg) (v : Word) : (s.setReg r v).ct = s.ct := rfl
@[simp] theorem State.setReg_ctv (s : State) (r : Reg) (v : Word) : (s.setReg r v).ctv = s.ctv := rfl
@[simp] theorem State.setReg_ctn (s : State) (r : Reg) (v : Word) : (s.setReg r v).ctn = s.ctn := rfl
@[simp] theorem State.setReg_nrounds (s : State) (r : Reg) (v : Word) : (s.setReg r v).nrounds = s.nrounds := rfl
@[simp] theorem State.setReg_seedlen (s : State) (r : Reg) (v : Word) : (s.setReg r v).seedlen = s.seedlen := rfl
@[simp] theorem State.setReg_eie (s : State) (r : Reg) (v : Word) : (s.setReg r v).eie = s.eie := rfl
@[simp] theorem State.setReg_ecause (s : State) (r : Reg) (v : Word) : (s.setReg r v).ecause = s.ecause := rfl
@[simp] theorem State.setReg_einfo (s : State) (r : Reg) (v : Word) : (s.setReg r v).einfo = s.einfo := rfl
@[simp] theorem State.setReg_esticky (s : State) (r : Reg) (v : Word) : (s.setReg r v).esticky = s.esticky := rfl
@[simp] theorem State.setReg_port (s : State) (r : Reg) (v : Word) : (s.setReg r v).port = s.port := rfl
@[simp] theorem State.setReg_offer (s : State) (r : Reg) (v : Word) : (s.setReg r v).offer = s.offer := rfl
@[simp] theorem State.setReg_script (s : State) (r : Reg) (v : Word) : (s.setReg r v).script = s.script := rfl
@[simp] theorem State.setReg_taken (s : State) (r : Reg) (v : Word) : (s.setReg r v).taken = s.taken := rfl

/-! ## `State.answer` -/

@[simp] theorem State.answer_w (s : State) (c : BitVec 4) (v : Word) : (s.answer c v).w = s.w := rfl
@[simp] theorem State.answer_em (s : State) (c : BitVec 4) (v : Word) : (s.answer c v).em = s.em := rfl
@[simp] theorem State.answer_bm (s : State) (c : BitVec 4) (v : Word) : (s.answer c v).bm = s.bm := rfl
@[simp] theorem State.answer_sm (s : State) (c : BitVec 4) (v : Word) : (s.answer c v).sm = s.sm := rfl
@[simp] theorem State.answer_ct (s : State) (c : BitVec 4) (v : Word) : (s.answer c v).ct = s.ct := rfl
@[simp] theorem State.answer_ctv (s : State) (c : BitVec 4) (v : Word) : (s.answer c v).ctv = s.ctv := rfl
@[simp] theorem State.answer_ctn (s : State) (c : BitVec 4) (v : Word) : (s.answer c v).ctn = s.ctn := rfl
@[simp] theorem State.answer_nrounds (s : State) (c : BitVec 4) (v : Word) : (s.answer c v).nrounds = s.nrounds := rfl
@[simp] theorem State.answer_seedlen (s : State) (c : BitVec 4) (v : Word) : (s.answer c v).seedlen = s.seedlen := rfl
@[simp] theorem State.answer_eie (s : State) (c : BitVec 4) (v : Word) : (s.answer c v).eie = s.eie := rfl
@[simp] theorem State.answer_ecause (s : State) (c : BitVec 4) (v : Word) : (s.answer c v).ecause = s.ecause := rfl
@[simp] theorem State.answer_einfo (s : State) (c : BitVec 4) (v : Word) : (s.answer c v).einfo = s.einfo := rfl
@[simp] theorem State.answer_esticky (s : State) (c : BitVec 4) (v : Word) : (s.answer c v).esticky = s.esticky := rfl
@[simp] theorem State.answer_port (s : State) (c : BitVec 4) (v : Word) : (s.answer c v).port = .answering ⟨c, v⟩ := rfl
@[simp] theorem State.answer_offer (s : State) (c : BitVec 4) (v : Word) : (s.answer c v).offer = s.offer := rfl
@[simp] theorem State.answer_script (s : State) (c : BitVec 4) (v : Word) : (s.answer c v).script = s.script := rfl
@[simp] theorem State.answer_taken (s : State) (c : BitVec 4) (v : Word) : (s.answer c v).taken = s.taken := rfl

/-! ## `State.takeFault` -/

@[simp] theorem State.takeFault_w (s : State) (c : Cause) (n : Nat) : (s.takeFault c n).w = s.w := rfl
@[simp] theorem State.takeFault_em (s : State) (c : Cause) (n : Nat) : (s.takeFault c n).em = s.em := rfl
@[simp] theorem State.takeFault_bm (s : State) (c : Cause) (n : Nat) : (s.takeFault c n).bm = s.bm := rfl
@[simp] theorem State.takeFault_sm (s : State) (c : Cause) (n : Nat) : (s.takeFault c n).sm = s.sm := rfl
@[simp] theorem State.takeFault_ct (s : State) (c : Cause) (n : Nat) : (s.takeFault c n).ct = s.ct := rfl
@[simp] theorem State.takeFault_ctv (s : State) (c : Cause) (n : Nat) : (s.takeFault c n).ctv = s.ctv := rfl
@[simp] theorem State.takeFault_ctn (s : State) (c : Cause) (n : Nat) : (s.takeFault c n).ctn = s.ctn := rfl
@[simp] theorem State.takeFault_nrounds (s : State) (c : Cause) (n : Nat) : (s.takeFault c n).nrounds = s.nrounds := rfl
@[simp] theorem State.takeFault_seedlen (s : State) (c : Cause) (n : Nat) : (s.takeFault c n).seedlen = s.seedlen := rfl
@[simp] theorem State.takeFault_eie (s : State) (c : Cause) (n : Nat) : (s.takeFault c n).eie = s.eie := rfl
@[simp] theorem State.takeFault_ecause (s : State) (c : Cause) (n : Nat) : (s.takeFault c n).ecause = BitVec.ofNat 4 c.code := rfl
@[simp] theorem State.takeFault_einfo (s : State) (c : Cause) (n : Nat) : (s.takeFault c n).einfo = BitVec.ofNat 16 n := rfl
@[simp] theorem State.takeFault_esticky (s : State) (c : Cause) (n : Nat) : (s.takeFault c n).esticky = s.esticky ||| (1 <<< c.code) := rfl
@[simp] theorem State.takeFault_port (s : State) (c : Cause) (n : Nat) : (s.takeFault c n).port = .answering ⟨BitVec.ofNat 4 c.code, 0⟩ := rfl
@[simp] theorem State.takeFault_offer (s : State) (c : Cause) (n : Nat) : (s.takeFault c n).offer = s.offer := rfl
@[simp] theorem State.takeFault_script (s : State) (c : Cause) (n : Nat) : (s.takeFault c n).script = s.script := rfl
@[simp] theorem State.takeFault_taken (s : State) (c : Cause) (n : Nat) : (s.takeFault c n).taken = s.taken := rfl

/-! ## `State.clearFaults` -/

@[simp] theorem State.clearFaults_w (s : State) : (s.clearFaults).w = s.w := rfl
@[simp] theorem State.clearFaults_em (s : State) : (s.clearFaults).em = s.em := rfl
@[simp] theorem State.clearFaults_bm (s : State) : (s.clearFaults).bm = s.bm := rfl
@[simp] theorem State.clearFaults_sm (s : State) : (s.clearFaults).sm = s.sm := rfl
@[simp] theorem State.clearFaults_ct (s : State) : (s.clearFaults).ct = s.ct := rfl
@[simp] theorem State.clearFaults_ctv (s : State) : (s.clearFaults).ctv = s.ctv := rfl
@[simp] theorem State.clearFaults_ctn (s : State) : (s.clearFaults).ctn = s.ctn := rfl
@[simp] theorem State.clearFaults_nrounds (s : State) : (s.clearFaults).nrounds = s.nrounds := rfl
@[simp] theorem State.clearFaults_seedlen (s : State) : (s.clearFaults).seedlen = s.seedlen := rfl
@[simp] theorem State.clearFaults_eie (s : State) : (s.clearFaults).eie = s.eie := rfl
@[simp] theorem State.clearFaults_ecause (s : State) : (s.clearFaults).ecause = 0 := rfl
@[simp] theorem State.clearFaults_einfo (s : State) : (s.clearFaults).einfo = 0 := rfl
@[simp] theorem State.clearFaults_esticky (s : State) : (s.clearFaults).esticky = 0 := rfl
@[simp] theorem State.clearFaults_port (s : State) : (s.clearFaults).port = s.port := rfl
@[simp] theorem State.clearFaults_offer (s : State) : (s.clearFaults).offer = s.offer := rfl
@[simp] theorem State.clearFaults_script (s : State) : (s.clearFaults).script = s.script := rfl
@[simp] theorem State.clearFaults_taken (s : State) : (s.clearFaults).taken = s.taken := rfl

/-! ## `State.nextEdge` -/

@[simp] theorem State.nextEdge_w (s : State) : (s.nextEdge).w = s.w := rfl
@[simp] theorem State.nextEdge_em (s : State) : (s.nextEdge).em = s.em := rfl
@[simp] theorem State.nextEdge_bm (s : State) : (s.nextEdge).bm = s.bm := rfl
@[simp] theorem State.nextEdge_sm (s : State) : (s.nextEdge).sm = s.sm := rfl
@[simp] theorem State.nextEdge_ct (s : State) : (s.nextEdge).ct = s.ct := rfl
@[simp] theorem State.nextEdge_ctv (s : State) : (s.nextEdge).ctv = s.ctv := rfl
@[simp] theorem State.nextEdge_ctn (s : State) : (s.nextEdge).ctn = s.ctn := rfl
@[simp] theorem State.nextEdge_nrounds (s : State) : (s.nextEdge).nrounds = s.nrounds := rfl
@[simp] theorem State.nextEdge_seedlen (s : State) : (s.nextEdge).seedlen = s.seedlen := rfl
@[simp] theorem State.nextEdge_eie (s : State) : (s.nextEdge).eie = s.eie := rfl
@[simp] theorem State.nextEdge_ecause (s : State) : (s.nextEdge).ecause = s.ecause := rfl
@[simp] theorem State.nextEdge_einfo (s : State) : (s.nextEdge).einfo = s.einfo := rfl
@[simp] theorem State.nextEdge_esticky (s : State) : (s.nextEdge).esticky = s.esticky := rfl
@[simp] theorem State.nextEdge_port (s : State) : (s.nextEdge).port = s.port := rfl
@[simp] theorem State.nextEdge_offer (s : State) : (s.nextEdge).offer = s.offer := rfl
@[simp] theorem State.nextEdge_script (s : State) : (s.nextEdge).script = s.script.tail := rfl
@[simp] theorem State.nextEdge_taken (s : State) : (s.nextEdge).taken = s.taken := rfl

/-! ## `State.busyEdge` -/

@[simp] theorem State.busyEdge_w (s : State) : (s.busyEdge).w = s.w := rfl
@[simp] theorem State.busyEdge_em (s : State) : (s.busyEdge).em = s.em := rfl
@[simp] theorem State.busyEdge_bm (s : State) : (s.busyEdge).bm = s.bm := rfl
@[simp] theorem State.busyEdge_sm (s : State) : (s.busyEdge).sm = s.sm := rfl
@[simp] theorem State.busyEdge_ct (s : State) : (s.busyEdge).ct = s.ct := rfl
@[simp] theorem State.busyEdge_ctv (s : State) : (s.busyEdge).ctv = s.ctv := rfl
@[simp] theorem State.busyEdge_ctn (s : State) : (s.busyEdge).ctn = s.ctn := rfl
@[simp] theorem State.busyEdge_nrounds (s : State) : (s.busyEdge).nrounds = s.nrounds := rfl
@[simp] theorem State.busyEdge_seedlen (s : State) : (s.busyEdge).seedlen = s.seedlen := rfl
@[simp] theorem State.busyEdge_eie (s : State) : (s.busyEdge).eie = s.eie := rfl
@[simp] theorem State.busyEdge_ecause (s : State) : (s.busyEdge).ecause = s.ecause := rfl
@[simp] theorem State.busyEdge_einfo (s : State) : (s.busyEdge).einfo = s.einfo := rfl
@[simp] theorem State.busyEdge_esticky (s : State) : (s.busyEdge).esticky = s.esticky := rfl
@[simp] theorem State.busyEdge_port (s : State) : (s.busyEdge).port = s.port := rfl
@[simp] theorem State.busyEdge_offer (s : State) : (s.busyEdge).offer = s.offer.afterBusy s.pins.cmd := rfl
@[simp] theorem State.busyEdge_script (s : State) : (s.busyEdge).script = s.script.tail := rfl
@[simp] theorem State.busyEdge_taken (s : State) : (s.busyEdge).taken = s.taken := rfl

/-! ## `State.withFetchWord` -/

@[simp] theorem State.withFetchWord_w (s : State) (k n : Nat) : (s.withFetchWord k n).w = s.w := rfl
@[simp] theorem State.withFetchWord_em (s : State) (k n : Nat) : (s.withFetchWord k n).em = s.em := rfl
@[simp] theorem State.withFetchWord_bm (s : State) (k n : Nat) : (s.withFetchWord k n).bm = s.bm := rfl
@[simp] theorem State.withFetchWord_sm (s : State) (k n : Nat) : (s.withFetchWord k n).sm = s.sm := rfl
@[simp] theorem State.withFetchWord_ct (s : State) (k n : Nat) : (s.withFetchWord k n).ct = s.ct := rfl
@[simp] theorem State.withFetchWord_ctv (s : State) (k n : Nat) : (s.withFetchWord k n).ctv = s.ctv := rfl
@[simp] theorem State.withFetchWord_ctn (s : State) (k n : Nat) : (s.withFetchWord k n).ctn = s.ctn := rfl
@[simp] theorem State.withFetchWord_nrounds (s : State) (k n : Nat) : (s.withFetchWord k n).nrounds = s.nrounds := rfl
@[simp] theorem State.withFetchWord_seedlen (s : State) (k n : Nat) : (s.withFetchWord k n).seedlen = s.seedlen := rfl
@[simp] theorem State.withFetchWord_eie (s : State) (k n : Nat) : (s.withFetchWord k n).eie = s.eie := rfl
@[simp] theorem State.withFetchWord_ecause (s : State) (k n : Nat) : (s.withFetchWord k n).ecause = s.ecause := rfl
@[simp] theorem State.withFetchWord_einfo (s : State) (k n : Nat) : (s.withFetchWord k n).einfo = s.einfo := rfl
@[simp] theorem State.withFetchWord_esticky (s : State) (k n : Nat) : (s.withFetchWord k n).esticky = s.esticky := rfl
@[simp] theorem State.withFetchWord_port (s : State) (k n : Nat) : (s.withFetchWord k n).port = .inFlight ⟨BitVec.ofNat 32 (n % 2 ^ k), s.wdata⟩ := rfl
@[simp] theorem State.withFetchWord_offer (s : State) (k n : Nat) : (s.withFetchWord k n).offer = s.offer := rfl
@[simp] theorem State.withFetchWord_script (s : State) (k n : Nat) : (s.withFetchWord k n).script = HostPins.quiet :: s.script := rfl
@[simp] theorem State.withFetchWord_taken (s : State) (k n : Nat) : (s.withFetchWord k n).taken = s.taken := rfl

/-! ## The views of the state that follow -/

@[simp] theorem State.writeEm_reg (s : State) (a : Nat) (v : Word) (q : Reg) : (s.writeEm a v).reg q = s.reg q := rfl
@[simp] theorem State.writeEm_readBm (s : State) (a : Nat) (v : Word) (j : Nat) : (s.writeEm a v).readBm j = s.readBm j := rfl
@[simp] theorem State.writeEm_readSm (s : State) (a : Nat) (v : Word) (j : Nat) : (s.writeEm a v).readSm j = s.readSm j := rfl
@[simp] theorem State.writeEm_readCt (s : State) (a : Nat) (v : Word) (j : Nat) : (s.writeEm a v).readCt j = s.readCt j := rfl
@[simp] theorem State.writeEm_wdata (s : State) (a : Nat) (v : Word) : (s.writeEm a v).wdata = s.wdata := rfl
@[simp] theorem State.writeEmAll_reg (s : State) (vs : List Word) (q : Reg) : (s.writeEmAll vs).reg q = s.reg q := rfl
@[simp] theorem State.writeEmAll_readBm (s : State) (vs : List Word) (j : Nat) : (s.writeEmAll vs).readBm j = s.readBm j := rfl
@[simp] theorem State.writeEmAll_readSm (s : State) (vs : List Word) (j : Nat) : (s.writeEmAll vs).readSm j = s.readSm j := rfl
@[simp] theorem State.writeEmAll_readCt (s : State) (vs : List Word) (j : Nat) : (s.writeEmAll vs).readCt j = s.readCt j := rfl
@[simp] theorem State.writeEmAll_wdata (s : State) (vs : List Word) : (s.writeEmAll vs).wdata = s.wdata := rfl
@[simp] theorem State.writeBm_reg (s : State) (a : Nat) (b : Byte) (q : Reg) : (s.writeBm a b).reg q = s.reg q := rfl
@[simp] theorem State.writeBm_readEm (s : State) (a : Nat) (b : Byte) (j : Nat) : (s.writeBm a b).readEm j = s.readEm j := rfl
@[simp] theorem State.writeBm_readSm (s : State) (a : Nat) (b : Byte) (j : Nat) : (s.writeBm a b).readSm j = s.readSm j := rfl
@[simp] theorem State.writeBm_readCt (s : State) (a : Nat) (b : Byte) (j : Nat) : (s.writeBm a b).readCt j = s.readCt j := rfl
@[simp] theorem State.writeBm_wdata (s : State) (a : Nat) (b : Byte) : (s.writeBm a b).wdata = s.wdata := rfl
@[simp] theorem State.writeSm_reg (s : State) (a : Nat) (b : Byte) (q : Reg) : (s.writeSm a b).reg q = s.reg q := rfl
@[simp] theorem State.writeSm_readEm (s : State) (a : Nat) (b : Byte) (j : Nat) : (s.writeSm a b).readEm j = s.readEm j := rfl
@[simp] theorem State.writeSm_readBm (s : State) (a : Nat) (b : Byte) (j : Nat) : (s.writeSm a b).readBm j = s.readBm j := rfl
@[simp] theorem State.writeSm_readCt (s : State) (a : Nat) (b : Byte) (j : Nat) : (s.writeSm a b).readCt j = s.readCt j := rfl
@[simp] theorem State.writeSm_wdata (s : State) (a : Nat) (b : Byte) : (s.writeSm a b).wdata = s.wdata := rfl
@[simp] theorem State.setTable_reg (s : State) (c : List Word) (q : Reg) : (s.setTable c).reg q = s.reg q := rfl
@[simp] theorem State.setTable_readEm (s : State) (c : List Word) (j : Nat) : (s.setTable c).readEm j = s.readEm j := rfl
@[simp] theorem State.setTable_readBm (s : State) (c : List Word) (j : Nat) : (s.setTable c).readBm j = s.readBm j := rfl
@[simp] theorem State.setTable_readSm (s : State) (c : List Word) (j : Nat) : (s.setTable c).readSm j = s.readSm j := rfl
@[simp] theorem State.setTable_wdata (s : State) (c : List Word) : (s.setTable c).wdata = s.wdata := rfl
@[simp] theorem State.setReg_readEm (s : State) (r : Reg) (v : Word) (j : Nat) : (s.setReg r v).readEm j = s.readEm j := rfl
@[simp] theorem State.setReg_readBm (s : State) (r : Reg) (v : Word) (j : Nat) : (s.setReg r v).readBm j = s.readBm j := rfl
@[simp] theorem State.setReg_readSm (s : State) (r : Reg) (v : Word) (j : Nat) : (s.setReg r v).readSm j = s.readSm j := rfl
@[simp] theorem State.setReg_readCt (s : State) (r : Reg) (v : Word) (j : Nat) : (s.setReg r v).readCt j = s.readCt j := rfl
@[simp] theorem State.setReg_wdata (s : State) (r : Reg) (v : Word) : (s.setReg r v).wdata = s.wdata := rfl
@[simp] theorem State.answer_reg (s : State) (c : BitVec 4) (v : Word) (q : Reg) : (s.answer c v).reg q = s.reg q := rfl
@[simp] theorem State.answer_readEm (s : State) (c : BitVec 4) (v : Word) (j : Nat) : (s.answer c v).readEm j = s.readEm j := rfl
@[simp] theorem State.answer_readBm (s : State) (c : BitVec 4) (v : Word) (j : Nat) : (s.answer c v).readBm j = s.readBm j := rfl
@[simp] theorem State.answer_readSm (s : State) (c : BitVec 4) (v : Word) (j : Nat) : (s.answer c v).readSm j = s.readSm j := rfl
@[simp] theorem State.answer_readCt (s : State) (c : BitVec 4) (v : Word) (j : Nat) : (s.answer c v).readCt j = s.readCt j := rfl
@[simp] theorem State.takeFault_reg (s : State) (c : Cause) (n : Nat) (q : Reg) : (s.takeFault c n).reg q = s.reg q := rfl
@[simp] theorem State.takeFault_readEm (s : State) (c : Cause) (n : Nat) (j : Nat) : (s.takeFault c n).readEm j = s.readEm j := rfl
@[simp] theorem State.takeFault_readBm (s : State) (c : Cause) (n : Nat) (j : Nat) : (s.takeFault c n).readBm j = s.readBm j := rfl
@[simp] theorem State.takeFault_readSm (s : State) (c : Cause) (n : Nat) (j : Nat) : (s.takeFault c n).readSm j = s.readSm j := rfl
@[simp] theorem State.takeFault_readCt (s : State) (c : Cause) (n : Nat) (j : Nat) : (s.takeFault c n).readCt j = s.readCt j := rfl
@[simp] theorem State.clearFaults_reg (s : State) (q : Reg) : (s.clearFaults).reg q = s.reg q := rfl
@[simp] theorem State.clearFaults_readEm (s : State) (j : Nat) : (s.clearFaults).readEm j = s.readEm j := rfl
@[simp] theorem State.clearFaults_readBm (s : State) (j : Nat) : (s.clearFaults).readBm j = s.readBm j := rfl
@[simp] theorem State.clearFaults_readSm (s : State) (j : Nat) : (s.clearFaults).readSm j = s.readSm j := rfl
@[simp] theorem State.clearFaults_readCt (s : State) (j : Nat) : (s.clearFaults).readCt j = s.readCt j := rfl
@[simp] theorem State.clearFaults_wdata (s : State) : (s.clearFaults).wdata = s.wdata := rfl
@[simp] theorem State.nextEdge_reg (s : State) (q : Reg) : (s.nextEdge).reg q = s.reg q := rfl
@[simp] theorem State.nextEdge_readEm (s : State) (j : Nat) : (s.nextEdge).readEm j = s.readEm j := rfl
@[simp] theorem State.nextEdge_readBm (s : State) (j : Nat) : (s.nextEdge).readBm j = s.readBm j := rfl
@[simp] theorem State.nextEdge_readSm (s : State) (j : Nat) : (s.nextEdge).readSm j = s.readSm j := rfl
@[simp] theorem State.nextEdge_readCt (s : State) (j : Nat) : (s.nextEdge).readCt j = s.readCt j := rfl
@[simp] theorem State.nextEdge_wdata (s : State) : (s.nextEdge).wdata = s.wdata := rfl
@[simp] theorem State.busyEdge_reg (s : State) (q : Reg) : (s.busyEdge).reg q = s.reg q := rfl
@[simp] theorem State.busyEdge_readEm (s : State) (j : Nat) : (s.busyEdge).readEm j = s.readEm j := rfl
@[simp] theorem State.busyEdge_readBm (s : State) (j : Nat) : (s.busyEdge).readBm j = s.readBm j := rfl
@[simp] theorem State.busyEdge_readSm (s : State) (j : Nat) : (s.busyEdge).readSm j = s.readSm j := rfl
@[simp] theorem State.busyEdge_readCt (s : State) (j : Nat) : (s.busyEdge).readCt j = s.readCt j := rfl
@[simp] theorem State.busyEdge_wdata (s : State) : (s.busyEdge).wdata = s.wdata := rfl
@[simp] theorem State.withFetchWord_reg (s : State) (k n : Nat) (q : Reg) : (s.withFetchWord k n).reg q = s.reg q := rfl
@[simp] theorem State.withFetchWord_readEm (s : State) (k n : Nat) (j : Nat) : (s.withFetchWord k n).readEm j = s.readEm j := rfl
@[simp] theorem State.withFetchWord_readBm (s : State) (k n : Nat) (j : Nat) : (s.withFetchWord k n).readBm j = s.readBm j := rfl
@[simp] theorem State.withFetchWord_readSm (s : State) (k n : Nat) (j : Nat) : (s.withFetchWord k n).readSm j = s.readSm j := rfl
@[simp] theorem State.withFetchWord_readCt (s : State) (k n : Nat) (j : Nat) : (s.withFetchWord k n).readCt j = s.readCt j := rfl

end Sys2Proof.Machine
end

