-- ==== Sys2Proof/Laws/Ops.lean ====
section
/-! SUPPORT. One lemma for each shared operation that says all it can do; proofs about commands cite these. -/

namespace Sys2Proof.Machine

/-! ## Reads after writes -/

theorem State.reg_setReg (s : State) (r : Reg) (v : Word) (q : Reg) : (s.setReg r v).reg q = if q = r then v else s.reg q := by
  unfold State.reg State.setReg
  by_cases h : q = r
  · subst h; simp
  · have : r.val ≠ q.val := fun e => h (Fin.ext e.symm)
    simp [h, this]

@[simp] theorem State.reg_setReg_same (s : State) (r : Reg) (v : Word) : (s.setReg r v).reg r = v := by simp [State.reg_setReg]

theorem State.readEm_writeEm (s : State) (a : Nat) (v : Word) (b : Nat) :
    (s.writeEm a v).readEm b = if b = a then v else s.readEm b := Mem.read_write _ _ _ _ _

theorem State.readBm_writeBm (s : State) (a : Nat) (v : Byte) (b : Nat) :
    (s.writeBm a v).readBm b = if b = a then v else s.readBm b := Mem.read_write _ _ _ _ _

theorem State.readSm_writeSm (s : State) (a : Nat) (v : Byte) (b : Nat) :
    (s.writeSm a v).readSm b = if b = a then v else s.readSm b := Mem.read_write _ _ _ _ _

theorem State.readEm_writeEmAll (s : State) (vs : List Word) (b : Nat) :
    (s.writeEmAll vs).readEm b = (vs[b]?).getD (s.readEm b) := by
  have := Mem.read_writeFrom wordUnlisted s.em 0 vs b
  simpa [State.readEm, State.writeEmAll] using this

theorem State.readCt_setTable (s : State) (vs : List Word) (i : Nat) : (s.setTable vs).readCt i = (vs[i]?).getD 0 := by
  have := Mem.read_writeFrom wordUnlisted [] 0 vs i
  simpa [State.readCt, State.setTable, wordUnlisted] using this

/-! ## Words -/

theorem modulus_pos : 0 < Config.modulus := by decide

theorem modulus_lt : Config.modulus < 2 ^ 256 := by decide

theorem toWord_toNat {v : Nat} (h : v < Config.modulus) : (toWord v).toNat = v := by
  unfold toWord
  rw [BitVec.toNat_ofNat, Nat.mod_eq_of_lt (lt_trans h modulus_lt)]

theorem canonical_iff (v : Word) : canonical v = true ↔ v.toNat < Config.modulus := by simp [canonical]

theorem canonical_toWord {v : Nat} (h : v < Config.modulus) : canonical (toWord v) = true := by
  rw [canonical_iff, toWord_toNat h]; exact h

theorem fadd_lt (a b : Nat) : fadd a b < Config.modulus := Nat.mod_lt _ modulus_pos

theorem fmul_lt (a b : Nat) : fmul a b < Config.modulus := Nat.mod_lt _ modulus_pos

theorem fsqr_lt (a : Nat) : fsqr a < Config.modulus := Nat.mod_lt _ modulus_pos

theorem fred_lt (v : Nat) : fred v < Config.modulus := Nat.mod_lt _ modulus_pos

theorem pow7_lt (t : Nat) : pow7 t < Config.modulus := fmul_lt _ _

/-! ## The end of a command -/

theorem respond_next_iff (s : State) (v : Word) (t : State) : respond s v = .next t ↔ t = s.answer 0 v := by
  unfold respond
  constructor
  · intro h; injection h with h; exact h.symm
  · rintro rfl; rfl

theorem raise_next_iff (s : State) (c : Cause) (n : Nat) (t : State) : raise s c n = .next t ↔ t = s.takeFault c n := by
  unfold raise
  constructor
  · intro h; injection h with h; exact h.symm
  · rintro rfl; rfl

/-! ## Operands: each either passes its value on or raises its one fault -/

theorem withField_of_canonical {s : State} {r : Reg} (h : canonical (s.reg r) = true) (k : Nat → Outcome) :
    withField s r k = k (s.reg r).toNat := by simp [withField, h]

theorem withField_of_outOfField {s : State} {r : Reg} (h : canonical (s.reg r) = false) (k : Nat → Outcome) :
    withField s r k = raise s .oof (0x8000 + r.val) := by simp [withField, h]

theorem withField_next {s : State} {r : Reg} {k : Nat → Outcome} {t : State} (h : withField s r k = .next t) :
    (canonical (s.reg r) = true ∧ k (s.reg r).toNat = .next t) ∨
    (canonical (s.reg r) = false ∧ t = s.takeFault .oof (0x8000 + r.val)) := by
  unfold withField at h
  split at h
  · next hc => exact .inl ⟨hc, h⟩
  · next hc => exact .inr ⟨by simpa using hc, (raise_next_iff ..).mp h⟩

theorem withTable_of_valid {s : State} (h : s.ctv = true) (k : List Nat → Outcome) : withTable s k = k s.table := by
  simp [withTable, h]

theorem withTable_of_invalid {s : State} (h : s.ctv = false) (k : List Nat → Outcome) : withTable s k = raise s .notready 0 := by
  simp [withTable, h]

theorem withTable_next {s : State} {k : List Nat → Outcome} {t : State} (h : withTable s k = .next t) :
    (s.ctv = true ∧ k s.table = .next t) ∨ (s.ctv = false ∧ t = s.takeFault .notready 0) := by
  unfold withTable at h
  split at h
  · next hc => exact .inl ⟨hc, h⟩
  · next hc => exact .inr ⟨by simpa using hc, (raise_next_iff ..).mp h⟩

theorem withArg_of_legal {s : State} {imm : Nat} {legal : Bool} (h : legal = true) (k : Outcome) : withArg s imm legal k = k := by
  simp [withArg, h]

theorem withArg_of_illegal {s : State} {imm : Nat} {legal : Bool} (h : legal = false) (k : Outcome) :
    withArg s imm legal k = raise s .badarg imm := by simp [withArg, h]

theorem withArg_next {s : State} {imm : Nat} {legal : Bool} {k : Outcome} {t : State} (h : withArg s imm legal k = .next t) :
    (legal = true ∧ k = .next t) ∨ (legal = false ∧ t = s.takeFault .badarg imm) := by
  unfold withArg at h
  split at h
  · next hc => exact .inl ⟨hc, h⟩
  · next hc => exact .inr ⟨by simpa using hc, (raise_next_iff ..).mp h⟩

theorem State.firstOutOfField_none_iff (s : State) (n : Nat) :
    s.firstOutOfField n = none ↔ ∀ j, j < n → canonical (s.readEm j) = true := by
  simp [State.firstOutOfField, List.find?_eq_none]

theorem State.firstOutOfField_some_iff (s : State) (n j : Nat) :
    s.firstOutOfField n = some j ↔
      j < n ∧ canonical (s.readEm j) = false ∧ ∀ i, i < j → canonical (s.readEm i) = true := by
  unfold State.firstOutOfField
  rw [List.find?_range_eq_some]
  constructor
  · rintro ⟨h1, h2, h3⟩
    exact ⟨List.mem_range.mp h2, by simpa using h1, fun i hi => by simpa using h3 i hi⟩
  · rintro ⟨h1, h2, h3⟩
    exact ⟨by simpa using h2, List.mem_range.mpr h1, fun i hi => by simpa using h3 i hi⟩

theorem withElements_of_canonical {s : State} {n : Nat} (h : ∀ j, j < n → canonical (s.readEm j) = true) (k : List Nat → Outcome) :
    withElements s n k = k (s.elements n) := by
  simp [withElements, (s.firstOutOfField_none_iff n).mpr h]

theorem withElements_next {s : State} {n : Nat} {k : List Nat → Outcome} {t : State} (h : withElements s n k = .next t) :
    ((∀ j, j < n → canonical (s.readEm j) = true) ∧ k (s.elements n) = .next t) ∨
    ∃ j, j < n ∧ canonical (s.readEm j) = false ∧ (∀ i, i < j → canonical (s.readEm i) = true) ∧ t = s.takeFault .oof j := by
  unfold withElements at h
  split at h
  · next j hj =>
    obtain ⟨h1, h2, h3⟩ := (s.firstOutOfField_some_iff n j).mp hj
    exact .inr ⟨j, h1, h2, h3, (raise_next_iff ..).mp h⟩
  · next hn => exact .inl ⟨(s.firstOutOfField_none_iff n).mp hn, h⟩

end Sys2Proof.Machine
end

