-- ==== Sys2Proof/Laws/Exec.lean ====
section
/-! SUPPORT. What a command can do, said once for all commands: it takes a fault of its causes, or it completes with the one update
its rule gives it. -/

namespace Sys2Proof.Laws

open Sys2Proof.Machine

/-- `u` is what a command's completion makes of `s`, before the response. -/
def Update (i : Instr) (s u : State) : Prop :=
  match i with
  | .fadd rd ra rb => u = s.setReg rd (toWord (fadd (s.reg ra).toNat (s.reg rb).toNat))
  | .fmul rd ra rb => u = s.setReg rd (toWord (fmul (s.reg ra).toNat (s.reg rb).toNat))
  | .fsqr rd ra => u = s.setReg rd (toWord (fsqr (s.reg ra).toNat))
  | .fred rd ra => u = s.setReg rd (toWord (fred (s.reg ra).toNat))
  | .feq _ _ => u = s
  | .genc => u = s.setTable ((genconst (s.seed s.seedlen.toNat) s.nrounds.toNat).map toWord) ∧
      1 ≤ s.nrounds.toNat ∧ s.nrounds.toNat ≤ Config.nrMax ∧ s.seedlen.toNat ≤ Config.smDepth
  | .rdc _ => u = s
  | .perm rd ra rb => u = s.setReg rd (toWord (permute (s.reg ra).toNat (s.reg rb).toNat s.table))
  | .hashk rd ra imm => u = s.setReg rd (toWord (multihash (s.elements imm) (s.reg ra).toNat s.table)) ∧
      canonical (s.reg ra) = true
  | .hashz rd imm => u = s.setReg rd (toWord (multihash (s.elements imm) 0 s.table))
  | .pack imm => u = s.writeEmAll ((packBytes (s.bytes imm)).map toWord)
  | .hashb rd imm => u = s.setReg rd (toWord (multihash (packBytes (s.bytes imm)) 0 s.table))
  | .ldw rd => u = s.setReg rd s.wdata
  | .rdw _ => u = s
  | .wre imm => u = s.writeEm imm s.wdata ∧ imm < Config.emDepth
  | .rde _ => u = s
  | .wrb imm => u = s.writeBm imm (s.wdata.setWidth 8) ∧ imm < Config.bmDepth
  | .rdb _ => u = s
  | .wrs imm => u = s.writeSm imm (s.wdata.setWidth 8) ∧ imm < Config.smDepth
  | .rds _ => u = s
  | .lde rd imm => u = s.setReg rd (s.readEm imm)
  | .ste ra imm => u = s.writeEm imm (s.reg ra) ∧ imm < Config.emDepth
  | .csrr _ => u = s
  | .csrw imm => ∃ c, csrOf imm = some c ∧ s.writeCsr s.wdata c = some u
  | .clre => u = s.clearFaults

/-- The causes a command raises with the information each carries, `imm` the command's immediate (R272). -/
def InfoOf (i : Instr) (c : Cause) (n : Nat) : Prop :=
  match c with
  | .oof => (∃ r : Reg, n = 0x8000 + r.val) ∨ n < Config.emDepth
  | .illcmd => False
  | .notready => n = 0
  | .badcfg => n = 1 ∨ n = 2
  | .badarg => i.wellFormed = true → n < 4096
  | .badcsr => i.wellFormed = true → n < 4096

/-- `o` is a next state that command `i` may leave from `s`: a fault of its causes, or its update and an answer. -/
def Does (i : Instr) (s : State) (o : Outcome) : Prop :=
  ∃ t, o = .next t ∧
    ((∃ c n, t = s.takeFault c n ∧ (i.wellFormed = true → c ∈ i.causes) ∧ InfoOf i c n) ∨
      ∃ u v, t = u.answer 0 v ∧ Update i s u ∧ (i.returnsRdata = false → v = 0))

variable {i : Instr} {s : State}

theorem does_raise {c : Cause} {n : Nat} (h : i.wellFormed = true → c ∈ i.causes) (hn : InfoOf i c n) : Does i s (raise s c n) :=
  ⟨_, rfl, .inl ⟨c, n, rfl, h, hn⟩⟩

theorem does_respond {u : State} {v : Word} (h : Update i s u) (hv : i.returnsRdata = false → v = 0) : Does i s (respond u v) :=
  ⟨_, rfl, .inr ⟨u, v, rfl, h, hv⟩⟩

theorem does_withField {r : Reg} {k : Nat → Outcome} (h : Cause.oof ∈ i.causes)
    (hk : canonical (s.reg r) = true → Does i s (k (s.reg r).toNat)) : Does i s (withField s r k) := by
  unfold withField
  split
  · next hc => exact hk hc
  · exact does_raise (fun _ => h) (.inl ⟨r, rfl⟩)

theorem does_withTable {k : List Nat → Outcome} (h : Cause.notready ∈ i.causes) (hk : Does i s (k s.table)) :
    Does i s (withTable s k) := by
  unfold withTable
  split
  · exact hk
  · exact does_raise (fun _ => h) rfl

theorem does_withArg {imm : Nat} {p : Prop} [Decidable p] {k : Outcome} (h : i.wellFormed = true → ¬ p → Cause.badarg ∈ i.causes)
    (hi : i.wellFormed = true → imm < 4096) (hk : p → Does i s k) : Does i s (withArg s imm (decide p) k) := by
  unfold withArg
  split
  · next hc => exact hk (of_decide_eq_true hc)
  · next hc => exact does_raise (fun hw => h hw (fun hp => hc (decide_eq_true hp))) hi

theorem does_withElements {n : Nat} {k : List Nat → Outcome} (h : Cause.oof ∈ i.causes) (hn : n ≤ Config.emDepth)
    (hk : Does i s (k (s.elements n))) : Does i s (withElements s n k) := by
  unfold withElements
  split
  · next j hj => exact does_raise (fun _ => h) (.inr (lt_of_lt_of_le ((s.firstOutOfField_some_iff n j).mp hj).1 hn))
  · exact hk

theorem fits {imm : Nat} (h : immFits imm = true) : imm < 4096 := by simpa [immFits] using h

/-- Everything a command can do: it always goes on to a next state, either by a fault of its causes or by its update. -/
theorem exec_outcome (i : Instr) (s : State) : Does i s (exec i s) := by
  cases i with
  | fadd rd ra rb =>
    show Does _ s (execFadd rd ra rb s)
    exact does_withField (by simp [Instr.causes]) fun _ => does_withField (by simp [Instr.causes]) fun _ =>
      does_respond rfl fun _ => rfl
  | fmul rd ra rb =>
    show Does _ s (execFmul rd ra rb s)
    exact does_withField (by simp [Instr.causes]) fun _ => does_withField (by simp [Instr.causes]) fun _ =>
      does_respond rfl fun _ => rfl
  | fsqr rd ra =>
    show Does _ s (execFsqr rd ra s)
    exact does_withField (by simp [Instr.causes]) fun _ => does_respond rfl fun _ => rfl
  | fred rd ra => exact does_respond rfl fun _ => rfl
  | feq ra rb =>
    show Does _ s (execFeq ra rb s)
    exact does_withField (by simp [Instr.causes]) fun _ => does_withField (by simp [Instr.causes]) fun _ =>
      does_respond rfl fun h => by cases h
  | genc =>
    show Does _ s (execGenc s)
    unfold execGenc
    split
    · exact does_raise (fun _ => by simp [Instr.causes]) (.inl rfl)
    · next h1 =>
      split
      · exact does_raise (fun _ => by simp [Instr.causes]) (.inr rfl)
      · next h2 => exact does_respond ⟨rfl, by omega, by omega, by omega⟩ fun _ => rfl
  | rdc imm =>
    show Does _ s (execRdc imm s)
    exact does_withTable (by simp [Instr.causes]) (does_withArg (fun _ _ => by simp [Instr.causes]) fits fun _ =>
      does_respond rfl fun h => by cases h)
  | perm rd ra rb =>
    show Does _ s (execPerm rd ra rb s)
    exact does_withTable (by simp [Instr.causes]) (does_withField (by simp [Instr.causes]) fun _ =>
      does_withField (by simp [Instr.causes]) fun _ => does_respond rfl fun _ => rfl)
  | hashk rd ra imm =>
    show Does _ s (execHashk rd ra imm s)
    exact does_withTable (by simp [Instr.causes]) (does_withArg (fun _ _ => by simp [Instr.causes]) fits fun hl =>
      does_withField (by simp [Instr.causes]) fun hc => does_withElements (by simp [Instr.causes]) hl
        (does_respond ⟨rfl, hc⟩ fun _ => rfl))
  | hashz rd imm =>
    show Does _ s (execHashz rd imm s)
    exact does_withTable (by simp [Instr.causes]) (does_withArg (fun _ _ => by simp [Instr.causes]) fits fun hl =>
      does_withElements (by simp [Instr.causes]) hl (does_respond rfl fun _ => rfl))
  | pack imm => exact does_respond rfl fun h => by cases h
  | hashb rd imm =>
    show Does _ s (execHashb rd imm s)
    exact does_withTable (by simp [Instr.causes]) (does_respond rfl fun _ => rfl)
  | ldw rd => exact does_respond rfl fun _ => rfl
  | rdw ra => exact does_respond rfl fun h => by cases h
  | wre imm =>
    show Does _ s (execWre imm s)
    exact does_withArg (fun _ _ => by simp [Instr.causes]) fits fun hl => does_respond ⟨rfl, hl⟩ fun _ => rfl
  | rde imm =>
    show Does _ s (execRde imm s)
    exact does_withArg (fun _ _ => by simp [Instr.causes]) fits fun _ => does_respond rfl fun h => by cases h
  | wrb imm =>
    show Does _ s (execWrb imm s)
    exact does_withArg (fun hw hl => absurd (fits hw) hl) fits fun hl => does_respond ⟨rfl, hl⟩ fun _ => rfl
  | rdb imm =>
    show Does _ s (execRdb imm s)
    exact does_withArg (fun hw hl => absurd (fits hw) hl) fits fun _ => does_respond rfl fun h => by cases h
  | wrs imm =>
    show Does _ s (execWrs imm s)
    exact does_withArg (fun _ _ => by simp [Instr.causes]) fits fun hl => does_respond ⟨rfl, hl⟩ fun _ => rfl
  | rds imm =>
    show Does _ s (execRds imm s)
    exact does_withArg (fun _ _ => by simp [Instr.causes]) fits fun _ => does_respond rfl fun h => by cases h
  | lde rd imm =>
    show Does _ s (execLde rd imm s)
    exact does_withArg (fun _ _ => by simp [Instr.causes]) fits fun _ => does_respond rfl fun _ => rfl
  | ste ra imm =>
    show Does _ s (execSte ra imm s)
    exact does_withArg (fun _ _ => by simp [Instr.causes]) fits fun hl => does_respond ⟨rfl, hl⟩ fun _ => rfl
  | csrr imm =>
    show Does _ s (execCsrr imm s)
    unfold execCsrr
    split
    · exact does_respond rfl fun h => by cases h
    · exact does_raise (fun _ => by simp [Instr.causes]) fits
  | csrw imm =>
    show Does _ s (execCsrw imm s)
    unfold execCsrw
    split
    · next u hu => exact does_respond (Option.bind_eq_some_iff.mp hu) fun _ => rfl
    · exact does_raise (fun _ => by simp [Instr.causes]) fits
  | clre => exact does_respond rfl fun _ => rfl

/-- The same, read from a next state. -/
theorem exec_next {t : State} (h : exec i s = .next t) :
    (∃ c n, t = s.takeFault c n ∧ (i.wellFormed = true → c ∈ i.causes) ∧ InfoOf i c n) ∨
      ∃ u v, t = u.answer 0 v ∧ Update i s u ∧ (i.returnsRdata = false → v = 0) := by
  obtain ⟨t', ht, hc⟩ := exec_outcome i s
  rw [h] at ht
  injection ht with ht
  exact ht ▸ hc

end Sys2Proof.Laws
end

