-- ==== Sys2Proof/Laws/PerInstr.lean ====
section
/-! SUPPORT. Statements made once for each command: bits 31:24 of the word of a well-formed command are its opcode (R91, R93). -/

namespace Sys2Proof.Laws.EncodeOpcode

/-- The word of a well-formed command carries its opcode. -/
def Statement (i : Instr) : Prop := i.wellFormed = true → opField (encode i) = i.opcode

theorem fits {imm : Nat} (h : immFits imm = true) : imm < 4096 := by simpa [immFits] using h

theorem fadd (rd ra rb : Reg) : Statement (.fadd rd ra rb) := fun _ => opField_commandWord _ _ _ _ _ (opcode_lt _) (by decide)

theorem fmul (rd ra rb : Reg) : Statement (.fmul rd ra rb) := fun _ => opField_commandWord _ _ _ _ _ (opcode_lt _) (by decide)

theorem fsqr (rd ra : Reg) : Statement (.fsqr rd ra) := fun _ => opField_commandWord _ _ _ _ _ (opcode_lt _) (by decide)

theorem fred (rd ra : Reg) : Statement (.fred rd ra) := fun _ => opField_commandWord _ _ _ _ _ (opcode_lt _) (by decide)

theorem feq (ra rb : Reg) : Statement (.feq ra rb) := fun _ => opField_commandWord _ _ _ _ _ (opcode_lt _) (by decide)

theorem genc : Statement (.genc) := fun _ => opField_commandWord _ _ _ _ _ (opcode_lt _) (by decide)

theorem rdc (imm : Nat) : Statement (.rdc imm) := fun h => opField_commandWord _ _ _ _ _ (opcode_lt _) (fits h)

theorem perm (rd ra rb : Reg) : Statement (.perm rd ra rb) := fun _ => opField_commandWord _ _ _ _ _ (opcode_lt _) (by decide)

theorem hashk (rd ra : Reg) (imm : Nat) : Statement (.hashk rd ra imm) := fun h => opField_commandWord _ _ _ _ _ (opcode_lt _) (fits h)

theorem hashz (rd : Reg) (imm : Nat) : Statement (.hashz rd imm) := fun h => opField_commandWord _ _ _ _ _ (opcode_lt _) (fits h)

theorem pack (imm : Nat) : Statement (.pack imm) := fun h => opField_commandWord _ _ _ _ _ (opcode_lt _) (fits h)

theorem hashb (rd : Reg) (imm : Nat) : Statement (.hashb rd imm) := fun h => opField_commandWord _ _ _ _ _ (opcode_lt _) (fits h)

theorem ldw (rd : Reg) : Statement (.ldw rd) := fun _ => opField_commandWord _ _ _ _ _ (opcode_lt _) (by decide)

theorem rdw (ra : Reg) : Statement (.rdw ra) := fun _ => opField_commandWord _ _ _ _ _ (opcode_lt _) (by decide)

theorem wre (imm : Nat) : Statement (.wre imm) := fun h => opField_commandWord _ _ _ _ _ (opcode_lt _) (fits h)

theorem rde (imm : Nat) : Statement (.rde imm) := fun h => opField_commandWord _ _ _ _ _ (opcode_lt _) (fits h)

theorem wrb (imm : Nat) : Statement (.wrb imm) := fun h => opField_commandWord _ _ _ _ _ (opcode_lt _) (fits h)

theorem rdb (imm : Nat) : Statement (.rdb imm) := fun h => opField_commandWord _ _ _ _ _ (opcode_lt _) (fits h)

theorem wrs (imm : Nat) : Statement (.wrs imm) := fun h => opField_commandWord _ _ _ _ _ (opcode_lt _) (fits h)

theorem rds (imm : Nat) : Statement (.rds imm) := fun h => opField_commandWord _ _ _ _ _ (opcode_lt _) (fits h)

theorem lde (rd : Reg) (imm : Nat) : Statement (.lde rd imm) := fun h => opField_commandWord _ _ _ _ _ (opcode_lt _) (fits h)

theorem ste (ra : Reg) (imm : Nat) : Statement (.ste ra imm) := fun h => opField_commandWord _ _ _ _ _ (opcode_lt _) (fits h)

theorem csrr (imm : Nat) : Statement (.csrr imm) := fun h => opField_commandWord _ _ _ _ _ (opcode_lt _) (fits h)

theorem csrw (imm : Nat) : Statement (.csrw imm) := fun h => opField_commandWord _ _ _ _ _ (opcode_lt _) (fits h)

theorem clre : Statement (.clre) := fun _ => opField_commandWord _ _ _ _ _ (opcode_lt _) (by decide)

end Sys2Proof.Laws.EncodeOpcode
end

