-- ==== Sys2Proof/Laws/Primes.lean ====
section
/-! SUPPORT. The modulus R is prime, by certificates over the factors of one less; rule R181 rests its bijection on it. -/

namespace Sys2Proof.Laws

/-- `b ^ e mod m` by squaring, for `e` below `2 ^ fuel`. -/
def powMod (m : Nat) : Nat → Nat → Nat → Nat
  | 0, _, _ => 1 % m
  | fuel + 1, b, e => if e % 2 = 1 then b * powMod m fuel (b * b % m) (e / 2) % m else powMod m fuel (b * b % m) (e / 2)

theorem powMod_eq (m : Nat) : ∀ fuel b e, e < 2 ^ fuel → powMod m fuel b e = b ^ e % m
  | 0, b, e, h => by
    have : e = 0 := by simpa using h
    subst this; simp [powMod]
  | fuel + 1, b, e, h => by
    have hrec := powMod_eq m fuel (b * b % m) (e / 2) (by rw [pow_succ] at h; omega)
    have hsq : (b * b % m) ^ (e / 2) % m = b ^ (2 * (e / 2)) % m := by rw [← Nat.pow_mod, pow_mul, pow_two]
    rw [powMod, hrec, hsq]
    split
    · next ho =>
      rw [Nat.mul_mod, Nat.mod_mod, ← Nat.mul_mod, ← pow_succ']
      congr 2; omega
    · next ho => congr 2; omega

/-- A certificate: the listed primes with their exponents make `p - 1`, and `a` has order `p - 1` modulo `p`. -/
theorem prime_of_certificate (p a : Nat) (fs : List (Nat × Nat)) (hp : 1 < p) (hlt : p < 2 ^ 256) (hprime : ∀ f ∈ fs, f.1.Prime)
    (hprod : (fs.map fun f => f.1 ^ f.2).prod = p - 1) (hone : powMod p 256 a (p - 1) = 1)
    (hne : ∀ f ∈ fs, powMod p 256 a ((p - 1) / f.1) ≠ 1) : p.Prime := by
  have cast_pow : ∀ e, e < 2 ^ 256 → ((a : ZMod p) ^ e = 1 ↔ powMod p 256 a e = 1) := by
    intro e he
    rw [powMod_eq p 256 a e he, ← Nat.cast_pow, ← Nat.cast_one, ZMod.natCast_eq_natCast_iff', Nat.mod_eq_of_lt hp]
  refine lucas_primality p (a : ZMod p) ((cast_pow _ (by omega)).mpr hone) fun q hq hd => ?_
  rw [← hprod] at hd
  obtain ⟨x, hx, hqx⟩ := (Prime.dvd_prod_iff (Nat.prime_iff.mp hq)).mp hd
  obtain ⟨f, hf, rfl⟩ := List.mem_map.mp hx
  have : q = f.1 := (Nat.prime_dvd_prime_iff_eq hq (hprime f hf)).mp (hq.dvd_of_dvd_pow hqx)
  subst this
  exact fun h => hne f hf ((cast_pow _ (lt_of_le_of_lt (Nat.div_le_self _ _) (by omega))).mp h)

theorem prime_12048837557 : Nat.Prime 12048837557 :=
  prime_of_certificate _ 2 [(2, 2), (7, 2), (661, 1), (93001, 1)] (by decide) (by decide)
    (by simp only [List.forall_mem_cons, List.not_mem_nil, false_imp_iff, implies_true, and_true]; norm_num)
    (by decide +kernel) (by decide +kernel) (by decide +kernel)

theorem prime_5156902474397 : Nat.Prime 5156902474397 :=
  prime_of_certificate _ 2 [(2, 2), (107, 1), (12048837557, 1)] (by decide) (by decide)
    (by
      simp only [List.forall_mem_cons, List.not_mem_nil, false_imp_iff, implies_true, and_true]
      exact ⟨by norm_num, by norm_num, prime_12048837557⟩)
    (by decide +kernel) (by decide +kernel) (by decide +kernel)

theorem prime_1670836401704629 : Nat.Prime 1670836401704629 :=
  prime_of_certificate _ 2 [(2, 2), (3, 4), (5156902474397, 1)] (by decide) (by decide)
    (by
      simp only [List.forall_mem_cons, List.not_mem_nil, false_imp_iff, implies_true, and_true]
      exact ⟨by norm_num, by norm_num, prime_5156902474397⟩)
    (by decide +kernel) (by decide +kernel) (by decide +kernel)

theorem prime_639533339 : Nat.Prime 639533339 :=
  prime_of_certificate _ 2 [(2, 1), (229, 1), (853, 1), (1637, 1)] (by decide) (by decide)
    (by simp only [List.forall_mem_cons, List.not_mem_nil, false_imp_iff, implies_true, and_true]; norm_num)
    (by decide +kernel) (by decide +kernel) (by decide +kernel)

theorem prime_65865678001877903 : Nat.Prime 65865678001877903 :=
  prime_of_certificate _ 5 [(2, 1), (83, 1), (379, 1), (1637, 1), (639533339, 1)] (by decide) (by decide)
    (by
      simp only [List.forall_mem_cons, List.not_mem_nil, false_imp_iff, implies_true, and_true]
      exact ⟨by norm_num, by norm_num, by norm_num, by norm_num, prime_639533339⟩)
    (by decide +kernel) (by decide +kernel) (by decide +kernel)

theorem prime_13818364434197438864469338081 : Nat.Prime 13818364434197438864469338081 :=
  prime_of_certificate _ 3 [(2, 5), (5, 1), (823, 1), (1593227, 1), (65865678001877903, 1)] (by decide) (by decide)
    (by
      simp only [List.forall_mem_cons, List.not_mem_nil, false_imp_iff, implies_true, and_true]
      exact ⟨by norm_num, by norm_num, by norm_num, by norm_num, prime_65865678001877903⟩)
    (by decide +kernel) (by decide +kernel) (by decide +kernel)

theorem prime_405928799 : Nat.Prime 405928799 :=
  prime_of_certificate _ 22 [(2, 1), (11, 1), (3691, 1), (4999, 1)] (by decide) (by decide)
    (by simp only [List.forall_mem_cons, List.not_mem_nil, false_imp_iff, implies_true, and_true]; norm_num)
    (by decide +kernel) (by decide +kernel) (by decide +kernel)

/-- R is prime. -/
theorem modulus_prime : Nat.Prime Config.modulus :=
  prime_of_certificate _ 5
    [(2, 28), (3, 2), (13, 1), (29, 1), (983, 1), (11003, 1), (237073, 1), (405928799, 1), (1670836401704629, 1),
      (13818364434197438864469338081, 1)]
    (by decide) (by decide)
    (by
      simp only [List.forall_mem_cons, List.not_mem_nil, false_imp_iff, implies_true, and_true]
      exact ⟨by norm_num, by norm_num, by norm_num, by norm_num, by norm_num, by norm_num, by norm_num, prime_405928799,
        prime_1670836401704629, prime_13818364434197438864469338081⟩)
    (by decide +kernel) (by decide +kernel) (by decide +kernel)

/-- 7 has no factor in common with R - 1, so the seventh power has an inverse power (R181). -/
theorem seven_coprime : Nat.Coprime 7 (Config.modulus - 1) := by decide +kernel

end Sys2Proof.Laws
end

