-- ==== Sys2Proof/Laws/Step.lean ====
section
/-! SUPPORT. What a step can do, said once: the edge of a reset, of an acceptance, of an execution, of a response. -/

namespace Sys2Proof.Laws

open Sys2Proof.Machine

/-- Everything a step can do when it goes on to a next state, the guards included. -/
theorem step_next {s t : State} (h : step s = .next t) :
    (∃ img, s.pins.rst = some img ∧ t = s.resetEdge img) ∨
    (s.pins.rst = none ∧
      ((s.port = .idle ∧ s.pins.cmd = none ∧ t = { s.nextEdge with offer := .nothing }) ∨
       (∃ c, s.port = .idle ∧ s.pins.cmd = some c ∧ s.offer.admits c = true ∧
          t = { s.nextEdge with port := .inFlight c, offer := .nothing }) ∨
       (∃ c i, s.port = .inFlight c ∧ decode c.word = .ok i ∧ exec i s.busyEdge = .next t) ∨
       (∃ c e, s.port = .inFlight c ∧ decode c.word = .error e ∧ t = s.busyEdge.takeFault .illcmd 0) ∨
       (∃ r, s.port = .answering r ∧ s.pins.rspReady = true ∧
          t = { s.busyEdge with port := .idle, taken := s.taken ++ [r] }) ∨
       (∃ r, s.port = .answering r ∧ s.pins.rspReady = false ∧ t = s.busyEdge))) := by
  unfold step at h
  cases hr : s.pins.rst with
  | some img => rw [hr] at h; injection h with h; exact .inl ⟨img, rfl, h.symm⟩
  | none =>
    rw [hr] at h
    refine .inr ⟨rfl, ?_⟩
    cases hp : s.port with
    | idle =>
      simp only [hp, State.acceptEdge] at h
      cases hc : s.pins.cmd with
      | none => rw [hc] at h; injection h with h; exact .inl ⟨rfl, rfl, h.symm⟩
      | some c =>
        simp only [hc] at h
        split at h
        · next ha => injection h with h; exact .inr (.inl ⟨c, rfl, rfl, ha, h.symm⟩)
        · cases h
    | inFlight c =>
      simp only [hp, execWord] at h
      cases hd : decode c.word with
      | ok i => rw [hd] at h; exact .inr (.inr (.inl ⟨c, i, rfl, hd, h⟩))
      | error e => rw [hd] at h; injection h with h; exact .inr (.inr (.inr (.inl ⟨c, e, rfl, hd, h.symm⟩)))
    | answering r =>
      simp only [hp, State.responseEdge] at h
      injection h with h
      cases hy : s.pins.rspReady with
      | true => exact .inr (.inr (.inr (.inr (.inl ⟨r, rfl, rfl, by rw [← h, hy]; rfl⟩))))
      | false => exact .inr (.inr (.inr (.inr (.inr ⟨r, rfl, rfl, by rw [← h, hy]; rfl⟩))))

end Sys2Proof.Laws
end

