-- ==== Sys2Proof/Tests/Slice0.lean ====
section
/-! SUPPORT. The model's own tests: ill-formed commands refused, words written out from the spec's encoding decoded, one step of each
command against the spec's vectors (spec/95_test_vectors.md), and for each statement with hypotheses a case that meets them. -/

namespace Sys2Proof.Tests

open Sys2Proof.Machine

set_option Elab.async false

/-! ## Ill-formed commands -/

theorem test_illformed_rdc : Instr.wellFormed (.rdc 4096) = false := by decide

theorem test_illformed_hashk : Instr.wellFormed (.hashk 0 0 4096) = false := by decide

theorem test_illformed_hashz : Instr.wellFormed (.hashz 0 4096) = false := by decide

theorem test_illformed_pack : Instr.wellFormed (.pack 4096) = false := by decide

theorem test_illformed_hashb : Instr.wellFormed (.hashb 0 4096) = false := by decide

theorem test_illformed_wre : Instr.wellFormed (.wre 4096) = false := by decide

theorem test_illformed_rde : Instr.wellFormed (.rde 4096) = false := by decide

theorem test_illformed_wrb : Instr.wellFormed (.wrb 4096) = false := by decide

theorem test_illformed_rdb : Instr.wellFormed (.rdb 4096) = false := by decide

theorem test_illformed_wrs : Instr.wellFormed (.wrs 4096) = false := by decide

theorem test_illformed_rds : Instr.wellFormed (.rds 4096) = false := by decide

theorem test_illformed_lde : Instr.wellFormed (.lde 0 4096) = false := by decide

theorem test_illformed_ste : Instr.wellFormed (.ste 0 4096) = false := by decide

theorem test_illformed_csrr : Instr.wellFormed (.csrr 4096) = false := by decide

theorem test_illformed_csrw : Instr.wellFormed (.csrw 4096) = false := by decide

/-! ## Decoding

Each word is written out from the fields of R91: opcode, `rd`, `ra`, `rb`, immediate; the second word of a test sets a field the
format does not use, or one bit of it. -/

theorem test_decode_fadd :
    decode 0x10312000 = .ok (.fadd 3 1 2) ∧ decode 0x10312001 = .error (.nonzeroUnusedField 0x10) := by decide +kernel

theorem test_decode_fmul :
    decode 0x11012000 = .ok (.fmul 0 1 2) ∧ decode 0x11012800 = .error (.nonzeroUnusedField 0x11) := by decide +kernel

theorem test_decode_fsqr :
    decode 0x12550000 = .ok (.fsqr 5 5) ∧ decode 0x12551000 = .error (.nonzeroUnusedField 0x12) := by decide +kernel

theorem test_decode_fred :
    decode 0x13220000 = .ok (.fred 2 2) ∧ decode 0x13220001 = .error (.nonzeroUnusedField 0x13) := by decide +kernel

theorem test_decode_feq :
    decode 0x14012000 = .ok (.feq 1 2) ∧ decode 0x14112000 = .error (.nonzeroUnusedField 0x14) := by decide +kernel

theorem test_decode_genc :
    decode 0x20000000 = .ok (.genc) ∧ decode 0x20100000 = .error (.nonzeroUnusedField 0x20) := by decide +kernel

theorem test_decode_rdc :
    decode 0x2100005A = .ok (.rdc 90) ∧ decode 0x21100001 = .error (.nonzeroUnusedField 0x21) := by decide +kernel

theorem test_decode_perm :
    decode 0x30ABC000 = .ok (.perm 10 11 12) ∧ decode 0x30012005 = .error (.nonzeroUnusedField 0x30) := by decide +kernel

theorem test_decode_hashk :
    decode 0x40440001 = .ok (.hashk 4 4 1) ∧ decode 0x40041002 = .error (.nonzeroUnusedField 0x40) := by decide +kernel

theorem test_decode_hashz :
    decode 0x41000101 = .ok (.hashz 0 257) ∧ decode 0x41010001 = .error (.nonzeroUnusedField 0x41) := by decide +kernel

theorem test_decode_pack :
    decode 0x42000FFF = .ok (.pack 4095) ∧ decode 0x42100003 = .error (.nonzeroUnusedField 0x42) := by decide +kernel

theorem test_decode_hashb :
    decode 0x430001BD = .ok (.hashb 0 445) ∧ decode 0x43010003 = .error (.nonzeroUnusedField 0x43) := by decide +kernel

theorem test_decode_ldw :
    decode 0x50F00000 = .ok (.ldw 15) ∧ decode 0x50F00001 = .error (.nonzeroUnusedField 0x50) := by decide +kernel

theorem test_decode_rdw :
    decode 0x51030000 = .ok (.rdw 3) ∧ decode 0x51130000 = .error (.nonzeroUnusedField 0x51) := by decide +kernel

theorem test_decode_wre :
    decode 0x520000FF = .ok (.wre 255) ∧ decode 0x52100000 = .error (.nonzeroUnusedField 0x52) := by decide +kernel

theorem test_decode_rde :
    decode 0x53000100 = .ok (.rde 256) ∧ decode 0x53010000 = .error (.nonzeroUnusedField 0x53) := by decide +kernel

theorem test_decode_wrb :
    decode 0x54000FFF = .ok (.wrb 4095) ∧ decode 0x54001000 = .error (.nonzeroUnusedField 0x54) := by decide +kernel

theorem test_decode_rdb :
    decode 0x55000001 = .ok (.rdb 1) ∧ decode 0x55800001 = .error (.nonzeroUnusedField 0x55) := by decide +kernel

theorem test_decode_wrs :
    decode 0x56000080 = .ok (.wrs 128) ∧ decode 0x56010080 = .error (.nonzeroUnusedField 0x56) := by decide +kernel

theorem test_decode_rds :
    decode 0x5700007F = .ok (.rds 127) ∧ decode 0x5700807F = .error (.nonzeroUnusedField 0x57) := by decide +kernel

theorem test_decode_lde :
    decode 0x58500002 = .ok (.lde 5 2) ∧ decode 0x58510002 = .error (.nonzeroUnusedField 0x58) := by decide +kernel

theorem test_decode_ste :
    decode 0x59050002 = .ok (.ste 5 2) ∧ decode 0x59150002 = .error (.nonzeroUnusedField 0x59) := by decide +kernel

theorem test_decode_csrr :
    decode 0x60000009 = .ok (.csrr 9) ∧ decode 0x60001009 = .error (.nonzeroUnusedField 0x60) := by decide +kernel

theorem test_decode_csrw :
    decode 0x61000003 = .ok (.csrw 3) ∧ decode 0x61001003 = .error (.nonzeroUnusedField 0x61) := by decide +kernel

theorem test_decode_clre :
    decode 0x62000000 = .ok (.clre) ∧ decode 0x62000001 = .error (.nonzeroUnusedField 0x62) := by decide +kernel

/-- The host's table lookup reads the same word. -/
theorem test_decodeTableWord : decodeTableWord 32 0x10312000 = some (.fadd 3 1 2) ∧ decodeTableWord 32 0 = none := by decide +kernel

/-! ## Small states -/

/-- The modulus R as a word, as R8 prints it. -/
def r : Word := 0x30644E72E131A029B85045B68181585D2833E84879B9709143E1F593F0000001

/-- `c[1]` of the default seed (R147). -/
def c1 : Word := 0x2E2EBBB178296B63D88EC198F0976AD98BC1D4EB0D921DDD2EB86CB7E70A98E5

/-- A state after reset with `W1` and `W2` set. -/
def two (a b : Word) : State :=
  { State.reset with w := Vector.ofFn fun i => if i = 1 then a else if i = 2 then b else 0 }

/-- The same with the two-round table of the default seed. -/
def tabled (a b : Word) : State := { two a b with ct := [(1, c1)], ctv := true, ctn := 2 }

/-- The same with elements in EM. -/
def elems (s : State) (vs : List Word) : State := { s with em := Mem.ofValues wordUnlisted Config.emDepth vs }

/-- The same with bytes in BM. -/
def bytes (s : State) (vs : List Byte) : State := { s with bm := Mem.ofValues byteUnlisted Config.bmDepth vs }

/-- The same with a command in flight that brings the write data `d`. -/
def data (s : State) (d : Word) : State := { s with port := .inFlight ⟨0, d⟩ }

/-- What a next state shows. -/
def shows {α : Type} (f : State → α) : Outcome → Option α
  | .next t => some (f t)
  | .fault _ => none
  | .refused _ => none

/-- The fault an outcome took: cause, information word, sticky bits, response. -/
def faulted : Outcome → Option (BitVec 4 × BitVec 16 × BitVec 16 × Port) := shows fun t => (t.ecause, t.einfo, t.esticky, t.port)

/-- The value of a register and the response. -/
def gives (q : Reg) : Outcome → Option (Word × Port) := shows fun t => (t.reg q, t.port)

/-- A response with success. -/
def ok (v : Word) : Port := .answering ⟨0, v⟩

/-! ## One step of each command (95_test_vectors.md section 2) -/

theorem test_pseudo_construct : (Pseudo.construct 2).expand = some [⟨0x61000003, 2⟩, ⟨0x20000000, 0⟩] := by decide +kernel

theorem test_pseudo_seed : (Pseudo.seed [0x61]).expand = some [⟨0x56000000, 0x61⟩, ⟨0x61000004, 1⟩] := by decide +kernel

theorem test_fadd_wraps : gives 3 (exec (.fadd 3 1 2) (two (r - 1) 1)) = some (0, ok 0) := by decide +kernel

theorem test_fadd_first_offender :
    faulted (exec (.fadd 0 1 2) (two r (-1))) = some (1, 0x8001, 0x2, .answering ⟨1, 0⟩) := by
  decide +kernel

theorem test_fmul_minus_one_squared : gives 0 (exec (.fmul 0 1 2) (two (r - 1) (r - 1))) = some (1, ok 0) := by decide +kernel

theorem test_fmul_out_of_field :
    faulted (exec (.fmul 0 1 1) (two r 0)) = some (1, 0x8001, 0x2, .answering ⟨1, 0⟩) := by
  decide +kernel

theorem test_fsqr_wide :
    gives 0 (exec (.fsqr 0 1) (two (1 <<< 127) 0)) = some (0x0F9BB18D1ECE5FD647AFBA497E7EA7A2D7CC17B786468F6EBC1E0A6C0FFFFFFF, ok 0) := by
  decide +kernel

theorem test_fsqr_out_of_field :
    faulted (exec (.fsqr 0 2) (two 0 (-1))) = some (1, 0x8002, 0x2, .answering ⟨1, 0⟩) := by
  decide +kernel

theorem test_fred_in_place : gives 2 (exec (.fred 2 2) (two 0 (r + 5))) = some (5, ok 0) := by decide +kernel

theorem test_fred_all_ones :
    gives 0 (exec (.fred 0 2) (two 0 (-1))) = some (0x0E0A77C19A07DF2F666EA36F7879462E36FC76959F60CD29AC96341C4FFFFFFA, ok 0) := by
  decide +kernel

theorem test_feq_answers :
    [shows State.port (exec (.feq 1 2) (two 9 9)), shows State.port (exec (.feq 1 2) (two 9 10))] = [some (ok 1), some (ok 0)] := by
  decide +kernel

theorem test_feq_same_out_of_field :
    faulted (exec (.feq 1 1) (two r 0)) = some (1, 0x8001, 0x2, .answering ⟨1, 0⟩) := by
  decide +kernel

theorem test_genc_literal :
    shows (fun t => (t.readCt 0, t.readCt 1, t.ctn, t.ctv, t.port)) (exec .genc { State.reset with nrounds := 2 }) =
    some (0, c1, 2, true, ok 0) := by
  decide +kernel

theorem test_genc_rounds_before_seed :
    [faulted (exec .genc { State.reset with nrounds := 257, seedlen := 129 }),
      faulted (exec .genc { State.reset with nrounds := 256, seedlen := 129 })] =
    [some (4, 1, 0x10, .answering ⟨4, 0⟩), some (4, 2, 0x10, .answering ⟨4, 0⟩)] := by
  decide +kernel

theorem test_rdc_reads : shows State.port (exec (.rdc 1) (tabled 0 0)) = some (ok c1) := by decide +kernel

theorem test_rdc_stops :
    [faulted (exec (.rdc 2) (tabled 0 0)), faulted (exec (.rdc 0) State.reset)] =
    [some (5, 2, 0x20, .answering ⟨5, 0⟩), some (3, 0, 0x8, .answering ⟨3, 0⟩)] := by
  decide +kernel

theorem test_perm_two_rounds :
    gives 1 (exec (.perm 1 1 2) (tabled 1 2)) =
    some (17982845139823493230520796201980980048406511437048837391554889940426009384443, ok 0) := by
  decide +kernel

theorem test_perm_not_ready_first :
    faulted (exec (.perm 0 1 2) (two r r)) = some (3, 0, 0x8, .answering ⟨3, 0⟩) := by
  decide +kernel

theorem test_hashk_two_rounds :
    gives 0 (exec (.hashk 0 2 1) (elems (tabled 0 2) [1])) =
    some (17982845139823493230520796201980980048406511437048837391554889940426009384446, ok 0) := by
  decide +kernel

theorem test_hashk_key_before_elements :
    faulted (exec (.hashk 0 1 1) (elems (tabled r 0) [r])) = some (1, 0x8001, 0x2, .answering ⟨1, 0⟩) := by
  decide +kernel

theorem test_hashz_two_rounds :
    gives 0 (exec (.hashz 0 2) (elems (tabled 0 0) [1, 2])) =
    some (14665683906510990925084071759204496317615269135735477802905322763972792916053, ok 0) := by
  decide +kernel

theorem test_hashz_first_offender :
    faulted (exec (.hashz 0 6) (elems (tabled 0 0) [0, 1, 2, r, 4, r + 1])) = some (1, 3, 0x2, .answering ⟨1, 0⟩) := by
  decide +kernel

theorem test_pack_two_words :
    shows (fun t => (t.readEm 0, t.readEm 1, t.readEm 2, t.port))
      (exec (.pack 32) (bytes (elems State.reset [7, 7, 7]) ((List.range 32).map fun i => BitVec.ofNat 8 (i + 1)))) =
    some (0x001F1E1D1C1B1A191817161514131211100F0E0D0C0B0A090807060504030201, 0x20, 7, ok 2) := by
  decide +kernel

theorem test_pack_nothing :
    shows (fun t => (t.em, t.port)) (exec (.pack 0) (elems State.reset [7])) = some ([(0, 7)], ok 0) := by
  decide +kernel

theorem test_hashb_leaves_em :
    shows (fun t => (t.em, t.port)) (exec (.hashb 0 3) (bytes (tabled 0 0) [0x61, 0x62, 0x63])) = some ([], ok 0) := by
  decide +kernel

theorem test_hashb_not_ready : faulted (exec (.hashb 0 0) State.reset) = some (3, 0, 0x8, .answering ⟨3, 0⟩) := by decide +kernel

theorem test_ldw_any_word : gives 15 (exec (.ldw 15) (data State.reset (-1))) = some (-1, ok 0) := by decide +kernel

theorem test_rdw_reads : shows State.port (exec (.rdw 2) (two 0 (-1))) = some (ok (-1)) := by decide +kernel

theorem test_wre_last :
    shows (fun t => (t.em, t.port)) (exec (.wre 255) (data (elems State.reset [9]) r)) = some ([(0, 9), (255, r)], ok 0) := by
  decide +kernel

theorem test_wre_outside :
    faulted (exec (.wre 256) (data State.reset 1)) = some (5, 256, 0x20, .answering ⟨5, 0⟩) := by
  decide +kernel

theorem test_rde_reads : shows State.port (exec (.rde 1) (elems State.reset [5, 6])) = some (ok 6) := by decide +kernel

theorem test_rde_outside : faulted (exec (.rde 256) State.reset) = some (5, 256, 0x20, .answering ⟨5, 0⟩) := by decide +kernel

theorem test_wrb_low_byte :
    shows (fun t => (t.bm, t.port)) (exec (.wrb 4095) (data State.reset 0x1FF)) = some ([(4095, 0xFF)], ok 0) := by
  decide +kernel

theorem test_rdb_zero_extends :
    shows State.port (exec (.rdb 1) (bytes State.reset [1, 0xFE])) = some (ok 0xFE) := by
  decide +kernel

theorem test_wrs_low_byte :
    shows (fun t => (t.readSm 0, t.readSm 1, t.seedlen, t.port)) (exec (.wrs 0) (data State.reset 0x161)) =
    some (0x61, 0x69, 4, ok 0) := by
  decide +kernel

theorem test_wrs_outside :
    faulted (exec (.wrs 128) (data State.reset 1)) = some (5, 128, 0x20, .answering ⟨5, 0⟩) := by
  decide +kernel

theorem test_rds_reset_seed :
    [0, 1, 2, 3, 127].map (fun a => shows State.port (exec (.rds a) State.reset)) =
    [some (ok 0x6D), some (ok 0x69), some (ok 0x6D), some (ok 0x63), some (ok 0)] := by
  decide +kernel

theorem test_rds_outside : faulted (exec (.rds 128) State.reset) = some (5, 128, 0x20, .answering ⟨5, 0⟩) := by decide +kernel

theorem test_lde_unchecked : gives 5 (exec (.lde 5 1) (elems State.reset [0, r])) = some (r, ok 0) := by decide +kernel

theorem test_lde_outside : faulted (exec (.lde 5 256) State.reset) = some (5, 256, 0x20, .answering ⟨5, 0⟩) := by decide +kernel

theorem test_ste_unchecked :
    shows (fun t => (t.em, t.port)) (exec (.ste 1 2) (two r 0)) = some ([(2, r)], ok 0) := by
  decide +kernel

theorem test_ste_outside : faulted (exec (.ste 1 256) State.reset) = some (5, 256, 0x20, .answering ⟨5, 0⟩) := by decide +kernel

theorem test_csrr_after_reset :
    [0, 1, 2, 3, 4, 5, 9].map (fun a => shows State.port (exec (.csrr a) State.reset)) =
    [some (ok 0x4D433701), some (ok 0), some (ok 0), some (ok 91), some (ok 4), some (ok 0), some (ok r)] := by
  decide +kernel

theorem test_csrr_unknown : faulted (exec (.csrr 10) State.reset) = some (6, 10, 0x40, .answering ⟨6, 0⟩) := by decide +kernel

theorem test_csrw_low_bits :
    shows (fun t => (t.nrounds, t.port)) (exec (.csrw 3) (data State.reset 0x1005B)) = some (91, ok 0) := by
  decide +kernel

theorem test_csrw_read_only :
    faulted (exec (.csrw 5) (data State.reset 1)) = some (6, 5, 0x40, .answering ⟨6, 0⟩) := by
  decide +kernel

theorem test_clre_clears :
    shows (fun t => (t.ecause, t.einfo, t.esticky, t.err, t.port))
      (exec .clre { State.reset with ecause := 6, einfo := 10, esticky := 0x42 }) = some (0, 0, 0, false, ok 0) := by
  decide +kernel

theorem test_illegal_word : faulted (execWord 0xFFFFFFFF State.reset) = some (2, 0, 0x4, .answering ⟨2, 0⟩) := by decide +kernel

theorem test_fetched_word_runs :
    shows (fun t => (t.reg 0, t.port)) (step (State.reset.withFetchWord 32 0x13020000)) = some (0, ok 0) := by
  decide +kernel

/-! ## Cases that meet the hypotheses of the statements -/

/-- Outcomes that are a next state answered with success and `v`. -/
def Answers (o : Outcome) (st : BitVec 4) (v : Word) : Prop := ∃ t, o = .next t ∧ t.answered st v

theorem witness_DecodeOfEncodeIsTheCommand :
    Instr.wellFormed (.lde 15 4095) = true := by decide +kernel

theorem witness_EncodeOfDecodeIsTheWord :
    decode 0x58F00FFF = .ok (.lde 15 4095) := by decide +kernel

theorem witness_DecoderFollowsMatchAndMask :
    (⟨"FADD", 0x10000000, 0xFF000FFF⟩ ∈ opcodeTable ∧ OpcodeRow.matchesWord ⟨"FADD", 0x10000000, 0xFF000FFF⟩ 0x10FFF000 = true) ∧
    ∀ row ∈ opcodeTable, row.matchesWord 0x10FFF001 = false :=
  by decide +kernel

theorem witness_StepRunsTheDecodedCommand :
    ({ State.reset with port := .inFlight ⟨0x10312000, 0⟩ } : State).port = .inFlight ⟨0x10312000, 0⟩ ∧
    ({ State.reset with port := .inFlight ⟨0x10312000, 0⟩ } : State).pins.rst = none ∧ decode 0x10312000 = .ok (.fadd 3 1 2) ∧
    ((data State.reset 5).port = .inFlight ⟨0, 5⟩ ∧ (data State.reset 5).pins.rst = none ∧ decode 0 = .error (.unassignedOpcode 0)) :=
  by decide +kernel

theorem witness_IllegalWordRaisesIllcmd :
    decode 0 = .error (.unassignedOpcode 0) ∧ decode 0x10000001 = .error (.nonzeroUnusedField 0x10) ∧
    opField 0x63000000 ∉ [0x10, 0x11, 0x12, 0x13, 0x14, 0x20, 0x21, 0x30, 0x40, 0x41, 0x42, 0x43, 0x50, 0x51, 0x52, 0x53,
      0x54, 0x55, 0x56, 0x57, 0x58, 0x59, 0x60, 0x61, 0x62] :=
  by decide +kernel

theorem witness_EveryCommandAnswers :
    Instr.wellFormed (.wrb 4095) = true := by decide +kernel

theorem witness_FaultEntryWritesTheRecordOnly :
    0xFFFF < 2 ^ 16 := by decide +kernel

theorem witness_SuccessLeavesTheFaultRecord :
    Answers (exec (.fadd 3 1 2) (two 1 2)) 0 0 ∧ (.fadd 3 1 2 : Instr) ≠ .clre := ⟨⟨_, rfl, rfl⟩, by decide⟩

theorem witness_ReissuedFaultRepeats :
    Answers (exec (.wre 256) (data State.reset 1)) 5 0 ∧ (5 : BitVec 4) ≠ 0 := ⟨⟨_, rfl, rfl⟩, by decide⟩

theorem witness_StepStopsOnlyOnHandshakeBreach :
    State.handshakeKept { State.reset with script := [.present ⟨0, 0⟩] } = true ∧
    State.handshakeKept { State.reset with script := [.present ⟨0, 0⟩], offer := .held ⟨1, 0⟩ } = false :=
  by decide +kernel

theorem witness_ResetLeavesTheResetState :
    (List.replicate 256 r)[255]? = some r ∧ (List.replicate 4096 (7 : Byte))[4095]? = some 7 ∧ 4 ≤ 4 :=
  ⟨by rw [List.getElem?_replicate]; rfl, by rw [List.getElem?_replicate]; rfl, le_refl _⟩

theorem witness_ResetEdgeAbandonsTheCommand :
    ({ State.reset with port := .inFlight ⟨0, 0⟩, script := [.reset ⟨[1], [2]⟩] } : State).pins.rst = some ⟨[1], [2]⟩ :=
  by decide +kernel

/-- An idle block whose host presents a command that it held stable while it waited, or changed. -/
def waiting (o : Offer) : State := { State.reset with offer := o, script := [.present ⟨7, 8⟩] }

/-- A block with a response presented, the host's pins given. -/
def presenting (p : HostPins) : State := { State.reset with port := .answering ⟨0, 1⟩, script := [p] }

theorem witness_HandshakeEdges :
    ((waiting (.held ⟨7, 8⟩)).pins.rst = none ∧ (waiting (.held ⟨7, 8⟩)).pins.cmd = some ⟨7, 8⟩ ∧
      (waiting (.held ⟨7, 8⟩)).port = .idle ∧ (waiting (.held ⟨7, 8⟩)).offer.admits ⟨7, 8⟩ = true) ∧
    ((waiting .nothing).port = .idle ∧ (waiting .nothing).offer.admits ⟨7, 8⟩ = true) ∧
    (State.reset.pins.rst = none ∧ State.reset.port = .idle ∧ State.reset.pins.cmd = none) ∧
    ((presenting .ready).pins.rst = none ∧ (presenting .ready).port = .answering ⟨0, 1⟩ ∧ (presenting .ready).pins.rspReady = true) ∧
    ((presenting .quiet).pins.rst = none ∧ (presenting .quiet).port = .answering ⟨0, 1⟩ ∧ (presenting .quiet).pins.rspReady = false) ∧
    (⟨7, 9⟩ : Command) ≠ ⟨7, 8⟩ :=
  by decide +kernel

theorem witness_ExchangeIsOneTransaction :
    ({ waiting (.held ⟨7, 8⟩) with script := exchange ⟨7, 8⟩ ++ [.ready] } : State).port = .idle ∧
    ({ waiting (.held ⟨7, 8⟩) with script := exchange ⟨7, 8⟩ ++ [.ready] } : State).offer.admits ⟨7, 8⟩ = true ∧
    ({ waiting (.held ⟨7, 8⟩) with script := exchange ⟨7, 8⟩ ++ [.ready] } : State).script = exchange ⟨7, 8⟩ ++ [.ready] :=
  by decide +kernel

theorem witness_IrqIsALevelThatActsOnNothing :
    (∃ t, exec .clre { State.reset with eie := true, esticky := 2 } = .next t) ∧ Instr.isCsrAccess (.fadd 3 1 2) = false :=
  ⟨⟨_, rfl⟩, rfl⟩

theorem witness_UnusedWriteDataIsIgnored :
    Instr.usesWdata (.fadd 3 1 2) = false := by decide +kernel

theorem witness_OnlyTheDestinationRegisterChanges :
    (∃ t, exec (.fadd 3 1 2) (two 1 2) = .next t) ∧ Instr.dest (.fadd 3 1 2) ≠ some 1 := ⟨⟨_, rfl⟩, by decide⟩

theorem witness_OnlyTheStoredLocationsChange :
    ((∃ t, exec (.pack 4095) State.reset = .next t) ∧ Instr.storesEm (.pack 4095) 133 = false ∧ (.pack 4095 : Instr) ≠ .genc) ∧
    ((∃ t, exec (.wre 255) (data State.reset r) = .next t) ∧ Instr.storesEm (.wre 255) 254 = false) ∧
    ((∃ t, exec (.ste 1 0) (two r 0) = .next t) ∧ Instr.storesEm (.ste 1 0) 1 = false) ∧
    ((∃ t, exec (.wrb 4095) (data State.reset r) = .next t) ∧ Instr.storesBm (.wrb 4095) 4094 = false) ∧
    ((∃ t, exec (.wrs 127) (data State.reset r) = .next t) ∧ Instr.storesSm (.wrs 127) 126 = false) :=
  ⟨⟨⟨_, rfl⟩, by decide +kernel⟩, ⟨⟨_, rfl⟩, by decide⟩, ⟨⟨_, rfl⟩, by decide⟩, ⟨⟨_, rfl⟩, by decide⟩, ⟨_, rfl⟩, by decide⟩

theorem witness_OnlyCsrwChangesTheConfiguration :
    (∃ t, exec (.csrw 3) (data State.reset 1) = .next t) ∧ (.csrw 3 : Instr) ≠ .csrw 2 ∧ (.csrw 3 : Instr) ≠ .csrw 4 ∧
    (∃ t, exec (.csrw 2) (data State.reset 1) = .next t) ∧ (.csrw 2 : Instr) ≠ .csrw 3 :=
  ⟨⟨_, rfl⟩, by decide, by decide, ⟨_, rfl⟩, by decide⟩

theorem witness_ComputedWordsAreCanonical :
    Instr.computes (.hashk 0 2 0) = true ∧ Instr.dest (.hashk 0 2 0) = some 0 ∧ Answers (exec (.hashk 0 2 0) (tabled 0 2)) 0 0 :=
  ⟨rfl, rfl, ⟨_, rfl, rfl⟩⟩

theorem witness_UnreadableTableEntriesAreUnobservable :
    (∀ j, j < (tabled 0 0).ctn.toNat → Mem.read wordUnlisted [(1, c1), (2, 5)] j = (tabled 0 0).readCt j) ∧
    (.rdc 2 : Instr) ≠ .genc ∧ (shows State.ctv (exec .genc { tabled 0 0 with nrounds := 1 })) = some true ∧
    (shows State.ctn (exec .genc { tabled 0 0 with nrounds := 0 })) = some 2 :=
  by decide +kernel

theorem witness_TableUseIgnoresTheConfiguration :
    Instr.usesTable (.rdc 0) = true := by decide +kernel

theorem witness_EveryStepKeepsTheInvariant :
    (data State.reset 5).Inv ∧ ∃ t, step (data State.reset 5) = .next t := ⟨by decide +kernel, ⟨_, rfl⟩⟩

theorem witness_FieldFunctionLaws :
    Config.modulus - 1 < Config.modulus ∧ 1 < Config.modulus ∧ (1 : Nat) ≠ 0 := by decide +kernel

theorem witness_FaddAddsModuloR :
    (opField 0x10312000 = 0x10 ∧ immField 0x10312000 = 0) ∧ (opField 0x10312001 = 0x10 ∧ immField 0x10312001 ≠ 0) ∧
    ((two (r - 1) (r - 1)).reg 1).toNat < Config.modulus ∧ ((two (r - 1) (r - 1)).reg 2).toNat < Config.modulus ∧
    Config.modulus ≤ ((two r r).reg 1).toNat ∧
    (((two (r - 1) r).reg 1).toNat < Config.modulus ∧ Config.modulus ≤ ((two (r - 1) r).reg 2).toNat) :=
  by decide +kernel

theorem witness_FmulMultipliesModuloR :
    (opField 0x11012000 = 0x11 ∧ immField 0x11012000 = 0) ∧ (opField 0x11012800 = 0x11 ∧ immField 0x11012800 ≠ 0) ∧
    ((two (r - 1) (r - 1)).reg 1).toNat < Config.modulus ∧ ((two (r - 1) (r - 1)).reg 2).toNat < Config.modulus ∧
    Config.modulus ≤ ((two r r).reg 1).toNat ∧
    (((two (r - 1) r).reg 1).toNat < Config.modulus ∧ Config.modulus ≤ ((two (r - 1) r).reg 2).toNat) :=
  by decide +kernel

theorem witness_FsqrSquaresModuloR :
    (opField 0x12550000 = 0x12 ∧ immField 0x12550000 = 0) ∧ (opField 0x12550001 = 0x12 ∧ immField 0x12550001 ≠ 0) ∧
    ((two (r - 1) r).reg 1).toNat < Config.modulus ∧ Config.modulus ≤ ((two (r - 1) r).reg 2).toNat :=
  by decide +kernel

theorem witness_FredReducesAnyWord :
    (opField 0x13220000 = 0x13 ∧ immField 0x13220000 = 0) ∧ (opField 0x13220001 = 0x13 ∧ immField 0x13220001 ≠ 0) :=
  by decide +kernel

theorem witness_FeqAnswersEquality :
    (opField 0x14012000 = 0x14 ∧ immField 0x14012000 = 0) ∧ (opField 0x14012001 = 0x14 ∧ immField 0x14012001 ≠ 0) ∧
    ((two (r - 1) (r - 1)).reg 1).toNat < Config.modulus ∧ ((two (r - 1) (r - 1)).reg 2).toNat < Config.modulus ∧
    Config.modulus ≤ ((two r r).reg 1).toNat ∧
    (((two (r - 1) r).reg 1).toNat < Config.modulus ∧ Config.modulus ≤ ((two (r - 1) r).reg 2).toNat) :=
  by decide +kernel

theorem witness_GencBuildsTheTable :
    opField 0x20000000 = 0x20 ∧ (opField 0x20000001 = 0x20 ∧ (0x20000001 : BitVec 32) ≠ 0x20000000) ∧
    (({ State.reset with nrounds := 0 } : State).nrounds.toNat = 0 ∧ 256 < ({ State.reset with nrounds := 257 } : State).nrounds.toNat) ∧
    (1 ≤ State.reset.nrounds.toNat ∧ State.reset.nrounds.toNat ≤ 256 ∧ 128 < ({ State.reset with seedlen := 129 } : State).seedlen.toNat) ∧
    (({ State.reset with nrounds := 256, seedlen := 128 } : State).nrounds.toNat ≤ 256 ∧
      ({ State.reset with nrounds := 256, seedlen := 128 } : State).seedlen.toNat ≤ 128) :=
  by decide +kernel

theorem witness_RdcReadsAConstant :
    (opField 0x21000001 = 0x21 ∧ rdField 0x21000001 = 0) ∧ (opField 0x21100001 = 0x21 ∧ rdField 0x21100001 ≠ 0) ∧
    State.reset.ctv = false ∧ (tabled 0 0).ctv = true ∧ (tabled 0 0).ctn.toNat ≤ 2 ∧ 1 < (tabled 0 0).ctn.toNat :=
  by decide +kernel

theorem witness_PermPermutes :
    (opField 0x30ABC000 = 0x30 ∧ immField 0x30ABC000 = 0) ∧ (opField 0x30ABC001 = 0x30 ∧ immField 0x30ABC001 ≠ 0) ∧
    State.reset.ctv = false ∧ ((tabled r r).ctv = true ∧ Config.modulus ≤ ((tabled r r).reg 1).toNat) ∧
    (((tabled (r - 1) r).reg 1).toNat < Config.modulus ∧ Config.modulus ≤ ((tabled (r - 1) r).reg 2).toNat) ∧
    (((tabled (r - 1) (r - 1)).reg 1).toNat < Config.modulus ∧ ((tabled (r - 1) (r - 1)).reg 2).toNat < Config.modulus) :=
  by decide +kernel

theorem witness_HashkHashesUnderAKey :
    (opField 0x40040002 = 0x40 ∧ rbField 0x40040002 = 0) ∧ (opField 0x40041002 = 0x40 ∧ rbField 0x40041002 ≠ 0) ∧
    State.reset.ctv = false ∧ ((tabled 0 0).ctv = true ∧ 256 < 257) ∧ (256 ≤ 256 ∧ Config.modulus ≤ ((tabled r 0).reg 1).toNat) ∧
    (((tabled (r - 1) 0).reg 1).toNat < Config.modulus ∧ 1 < 256 ∧ Config.modulus ≤ ((elems (tabled (r - 1) 0) [r - 1, r]).readEm 1).toNat ∧
      ∀ i, i < 1 → ((elems (tabled (r - 1) 0) [r - 1, r]).readEm i).toNat < Config.modulus) ∧
    ∀ j, j < 256 → ((tabled (r - 1) 0).readEm j).toNat < Config.modulus :=
  by decide +kernel

theorem witness_HashzHashesUnderTheZeroKey :
    (opField 0x41000003 = 0x41 ∧ raField 0x41000003 = 0) ∧ (opField 0x41010003 = 0x41 ∧ raField 0x41010003 ≠ 0) ∧
    State.reset.ctv = false ∧ ((tabled 0 0).ctv = true ∧ 256 < 257) ∧
    (1 < 256 ∧ Config.modulus ≤ ((elems (tabled 0 0) [r - 1, r]).readEm 1).toNat ∧
      ∀ i, i < 1 → ((elems (tabled 0 0) [r - 1, r]).readEm i).toNat < Config.modulus) ∧
    (∀ j, j < 256 → ((tabled 0 0).readEm j).toNat < Config.modulus) ∧ (tabled 0 0).reg 15 = 0 :=
  by decide +kernel

theorem witness_PackWritesTheElements :
    (opField 0x42000FFF = 0x42 ∧ rdField 0x42000FFF = 0) ∧ (opField 0x42100FFF = 0x42 ∧ rdField 0x42100FFF ≠ 0) ∧
    4095 < 4096 ∧ 132 < (4095 + 30) / 31 ∧ (4095 + 30) / 31 ≤ 133 :=
  by decide +kernel

theorem witness_HashbHashesTheBytes :
    (opField 0x430001BD = 0x43 ∧ raField 0x430001BD = 0) ∧ (opField 0x430101BD = 0x43 ∧ raField 0x430101BD ≠ 0) ∧
    State.reset.ctv = false ∧ (tabled 0 0).ctv = true ∧ 4095 < 4096 :=
  by decide +kernel

theorem witness_LdwLoadsTheWriteData :
    (opField 0x50100000 = 0x50 ∧ immField 0x50100000 = 0) ∧ (opField 0x50100001 = 0x50 ∧ immField 0x50100001 ≠ 0) ∧
    (data State.reset (-1)).port = .inFlight ⟨0, -1⟩ :=
  by decide +kernel

theorem witness_RdwReadsARegister :
    (opField 0x51030000 = 0x51 ∧ immField 0x51030000 = 0) ∧ (opField 0x51030001 = 0x51 ∧ immField 0x51030001 ≠ 0) :=
  by decide +kernel

theorem witness_WreWritesAnElement :
    (opField 0x520000FF = 0x52 ∧ rdField 0x520000FF = 0) ∧ (opField 0x521000FF = 0x52 ∧ rdField 0x521000FF ≠ 0) ∧
    (data State.reset r).port = .inFlight ⟨0, r⟩ ∧ 256 ≤ 256 ∧ 255 < 256 :=
  by decide +kernel

theorem witness_RdeReadsAnElement :
    (opField 0x530000FF = 0x53 ∧ rdField 0x530000FF = 0) ∧ (opField 0x531000FF = 0x53 ∧ rdField 0x531000FF ≠ 0) ∧
    256 ≤ 256 ∧ 255 < 256 :=
  by decide +kernel

theorem witness_WrbWritesAByte :
    (opField 0x54000FFF = 0x54 ∧ rdField 0x54000FFF = 0) ∧ (opField 0x54100FFF = 0x54 ∧ rdField 0x54100FFF ≠ 0) ∧
    (data State.reset (-1)).port = .inFlight ⟨0, -1⟩ ∧ 4095 < 4096 :=
  by decide +kernel

theorem witness_RdbReadsAByte :
    (opField 0x55000FFF = 0x55 ∧ rdField 0x55000FFF = 0) ∧ (opField 0x55100FFF = 0x55 ∧ rdField 0x55100FFF ≠ 0) ∧
    4095 < 4096 :=
  by decide +kernel

theorem witness_WrsWritesASeedByte :
    (opField 0x5600007F = 0x56 ∧ rdField 0x5600007F = 0) ∧ (opField 0x5610007F = 0x56 ∧ rdField 0x5610007F ≠ 0) ∧
    (data State.reset (-1)).port = .inFlight ⟨0, -1⟩ ∧ 128 ≤ 128 ∧ 127 < 128 :=
  by decide +kernel

theorem witness_RdsReadsASeedByte :
    (opField 0x5700007F = 0x57 ∧ rdField 0x5700007F = 0) ∧ (opField 0x5710007F = 0x57 ∧ rdField 0x5710007F ≠ 0) ∧
    128 ≤ 128 ∧ 127 < 128 :=
  by decide +kernel

theorem witness_LdeLoadsAnElement :
    (opField 0x58F000FF = 0x58 ∧ raField 0x58F000FF = 0) ∧ (opField 0x58F100FF = 0x58 ∧ raField 0x58F100FF ≠ 0) ∧
    256 ≤ 256 ∧ 255 < 256 :=
  by decide +kernel

theorem witness_SteStoresARegister :
    (opField 0x590F00FF = 0x59 ∧ rdField 0x590F00FF = 0) ∧ (opField 0x591F00FF = 0x59 ∧ rdField 0x591F00FF ≠ 0) ∧
    256 ≤ 256 ∧ 255 < 256 :=
  by decide +kernel

theorem witness_CsrrReadsTheTenRegisters :
    (opField 0x60000009 = 0x60 ∧ rdField 0x60000009 = 0) ∧ (opField 0x60100009 = 0x60 ∧ rdField 0x60100009 ≠ 0) ∧
    0x00A ≤ 0x00A :=
  by decide +kernel

theorem witness_CsrwWritesTheThreeRegisters :
    (opField 0x61000003 = 0x61 ∧ rdField 0x61000003 = 0) ∧ (opField 0x61100003 = 0x61 ∧ rdField 0x61100003 ≠ 0) ∧
    (data State.reset (-1)).port = .inFlight ⟨0, -1⟩ ∧ 5 ≠ 2 ∧ 5 ≠ 3 ∧ 5 ≠ 4 :=
  by decide +kernel

theorem witness_ClreClearsTheRecord :
    opField 0x62000000 = 0x62 ∧ (opField 0x62000001 = 0x62 ∧ (0x62000001 : BitVec 32) ≠ 0x62000000) ∧
    (shows State.port (exec (.fadd 3 1 2) { two r 0 with esticky := 0x40 }) = some (.answering ⟨1, 0⟩) ∧
      ({ two r 0 with esticky := 0x40 } : State).esticky.getLsbD 6 = true ∧ (.fadd 3 1 2 : Instr) ≠ .clre) ∧
    ∀ imm, (.fadd 3 1 2 : Instr) ≠ .csrr imm :=
  ⟨by decide +kernel, by decide +kernel, by decide +kernel, fun _ h => by cases h⟩

theorem witness_PaddingAndDigestLengths :
    136 - (List.replicate 135 (0 : Byte)).length % 136 = 1 ∧ 2 ≤ 136 - ([] : List Byte).length % 136 ∧
    (0 < 1 ∧ 1 < 0 + (136 - 0 % 136) - 1) ∧ 0 < (Keccak.padded []).length / 136 ∧ 16 < 17 ∧ 24 < 25 ∧ 3 < 4 ∧ 7 < 8 :=
  by decide +kernel

theorem witness_ConstantsAreIteratedHashes :
    1 ≤ 2 ∧ 1 ≤ 1 ∧ 1 < 2 := by decide +kernel

theorem witness_DigestBytesRoundTrip :
    (List.replicate 32 (0xFF : Byte)).length = 32 ∧ 2 ^ 256 - 1 < 2 ^ 256 := by decide +kernel

theorem witness_KeccakRunsItsRounds :
    4 < 5 ∧ 63 < 64 ∧ 23 < 24 := by decide +kernel

theorem witness_RoundIsTheSeventhPower :
    Config.modulus - 1 < Config.modulus := by decide +kernel

theorem witness_PermuteRunsTheRounds :
    1 ≤ [0, 5].length ∧ 0 + 1 < [0, 5].length := by decide +kernel

theorem witness_MultihashChains :
    0 < [5].length := by decide +kernel

theorem witness_PackIsLittleEndianBy31 :
    0 < ([1] : List Byte).length ∧ 0 < (([1] : List Byte).length + 30) / 31 := by decide +kernel

end Sys2Proof.Tests
end

section
/-! PROOF. Byte strings and integers: `int2le` inverts `le2int`, and the big-endian pair is the little-endian one read backwards
(spec 00_scope.md R13, 41_constant_generator.md R142). -/

namespace Sys2Proof.Machine

@[simp] theorem length_int2le (n v : Nat) : (int2le n v).length = n := by
  induction n generalizing v with
  | zero => rfl
  | succ n ih => simp [int2le, ih]

theorem int2le_le2int (bs : List Byte) : int2le bs.length (le2int bs) = bs := by
  induction bs with
  | nil => rfl
  | cons b bs ih =>
    have hlow : BitVec.ofNat 8 (b.toNat + 256 * le2int bs) = b := BitVec.eq_of_toNat_eq (by simp; omega)
    have hhigh : (b.toNat + 256 * le2int bs) / 256 = le2int bs := by omega
    simp only [List.length_cons, le2int, int2le, hlow, hhigh, ih]

theorem le2int_int2le (n v : Nat) (hv : v < 256 ^ n) : le2int (int2le n v) = v := by
  induction n generalizing v with
  | zero => simp only [int2le, le2int]; omega
  | succ n ih =>
    have hrest : le2int (int2le n (v / 256)) = v / 256 := ih _ (Nat.div_lt_of_lt_mul (by rwa [Nat.pow_succ'] at hv))
    simp only [int2le, le2int, hrest, BitVec.toNat_ofNat]
    omega

theorem be2int_reverse (bs : List Byte) : be2int bs.reverse = le2int bs := by
  rw [be2int, List.foldl_reverse]
  induction bs with
  | nil => rfl
  | cons b bs ih => rw [List.foldr_cons, ih, le2int]; omega

theorem be2int_eq_le2int_reverse (bs : List Byte) : be2int bs = le2int bs.reverse := by
  rw [← be2int_reverse, List.reverse_reverse]

theorem int2be32_be2int (d : List Byte) (hd : d.length = 32) : int2be32 (be2int d) = d := by
  have hle : int2le 32 (le2int d.reverse) = d.reverse := by simpa [hd] using int2le_le2int d.reverse
  rw [int2be32, be2int_eq_le2int_reverse, hle, List.reverse_reverse]

@[simp] theorem length_int2be32 (v : Nat) : (int2be32 v).length = 32 := by simp [int2be32]

theorem be2int_int2be32 (v : Nat) (hv : v < 2 ^ 256) : be2int (int2be32 v) = v := by
  rw [int2be32, be2int_reverse]
  exact le2int_int2le 32 v (by omega)

/-- Settles O37: both directions reduce to the little-endian pair, each by induction on the bytes. -/
theorem digestBytesRoundTrip : Obligations.DigestBytesRoundTrip :=
  ⟨int2be32_be2int, fun v hv => ⟨length_int2be32 v, be2int_int2be32 v hv⟩⟩

end Sys2Proof.Machine
end

section
/-! PROOF. What a command's update writes, kind by kind, with the bounds and the tables of the spec that go with each kind
(spec 10_state.md R23, R24, R33 to R35, R42 to R44). -/

namespace Sys2Proof.Laws

open Sys2Proof.Machine

/-! ## Computed words and constants -/

theorem permute_lt (x k : Nat) (c : List Nat) : permute x k c < Config.modulus := fadd_lt _ _

theorem multihash_lt (e : List Nat) {key : Nat} (hk : key < Config.modulus) (c : List Nat) :
    multihash e key c < Config.modulus := by
  induction e generalizing key with
  | nil => exact hk
  | cons ej e ih => exact ih (fadd_lt _ _)

theorem length_constantsAfter (k : Nat) (d : List Byte) : (constantsAfter k d).length = k := by
  induction k generalizing d with
  | zero => rfl
  | succ k ih => simp [constantsAfter, ih]

theorem constantsAfter_lt {k : Nat} {d : List Byte} : ∀ v ∈ constantsAfter k d, v < Config.modulus := by
  induction k generalizing d with
  | zero => simp [constantsAfter]
  | succ k ih =>
    intro v hv
    rcases List.mem_cons.mp hv with rfl | hv
    · exact fred_lt _
    · exact ih v hv

theorem length_genconst (seed : List Byte) {n : Nat} (hn : 1 ≤ n) : (genconst seed n).length = n := by
  simp [genconst, length_constantsAfter, Nat.sub_add_cancel hn]

theorem genconst_lt {seed : List Byte} {n : Nat} : ∀ v ∈ genconst seed n, v < Config.modulus := by
  intro v hv
  rcases List.mem_cons.mp hv with rfl | hv
  · exact modulus_pos
  · exact constantsAfter_lt v hv

theorem length_packBytes_bytes (s : State) (len : Nat) : (packBytes (s.bytes len)).length = chunkCount len := by
  simp [packBytes, State.bytes]

/-! ## The kinds of update -/

/-- What a completing command `i` does to `s`, by the part of the state it writes: nothing, its destination register, the
locations of one memory that it stores to, the table (GENC), one configuration register (CSRW), or the fault record (CLRE). -/
inductive Effect (i : Instr) (s : State) : State → Prop
  | nothing (hd : i.dest = none) : Effect i s s
  | register {rd : Reg} {v : Word} (hd : i.dest = some rd) (hv : i.computes = true → canonical v = true) :
      Effect i s (s.setReg rd v)
  | element {a : Nat} {v : Word} (hd : i.dest = none) (hs : i.storesEm a = true) (ha : a < Config.emDepth) :
      Effect i s (s.writeEm a v)
  | elements {len : Nat} {vs : List Word} (hi : i = .pack len) (hl : vs.length = chunkCount len) :
      Effect i s (s.writeEmAll vs)
  | byte {a : Nat} {b : Byte} (hi : i = .wrb a) (ha : a < Config.bmDepth) : Effect i s (s.writeBm a b)
  | seedByte {a : Nat} {b : Byte} (hi : i = .wrs a) (ha : a < Config.smDepth) : Effect i s (s.writeSm a b)
  | table {seed : List Byte} {n : Nat} (hi : i = .genc) (h1 : 1 ≤ n) (hn : n ≤ Config.nrMax) :
      Effect i s (s.setTable ((genconst seed n).map toWord))
  | errorEnable {b : Bool} (hi : i = .csrw 2) : Effect i s { s with eie := b }
  | roundCount {n : BitVec 16} (hi : i = .csrw 3) : Effect i s { s with nrounds := n }
  | seedLength {l : BitVec 8} (hi : i = .csrw 4) : Effect i s { s with seedlen := l }
  | clearRecord (hi : i = .clre) : Effect i s s.clearFaults

variable {i : Instr} {s t u : State}

/-- CSRW writes one of three registers, each by its own number (R30, R251). -/
theorem effect_of_writeCsr {imm : Nat} {v : Word} {c : Csr} (hc : csrOf imm = some c) (hu : s.writeCsr v c = some u) :
    Effect (.csrw imm) s u := by
  unfold csrOf at hc
  split at hc <;> cases hc <;> cases hu
  · exact .errorEnable rfl
  · exact .roundCount rfl
  · exact .seedLength rfl

/-- Every update is of one of the kinds. -/
theorem effect_of_update (h : Update i s u) : Effect i s u := by
  cases i with
  | fadd => cases h; exact .register rfl fun _ => canonical_toWord (fadd_lt _ _)
  | fmul => cases h; exact .register rfl fun _ => canonical_toWord (fmul_lt _ _)
  | fsqr => cases h; exact .register rfl fun _ => canonical_toWord (fsqr_lt _)
  | fred => cases h; exact .register rfl fun _ => canonical_toWord (fred_lt _)
  | perm => cases h; exact .register rfl fun _ => canonical_toWord (permute_lt _ _ _)
  | hashk =>
    obtain ⟨rfl, hkey⟩ := h
    exact .register rfl fun _ => canonical_toWord (multihash_lt _ ((canonical_iff _).mp hkey) _)
  | hashz | hashb => cases h; exact .register rfl fun _ => canonical_toWord (multihash_lt _ modulus_pos _)
  | ldw | lde => cases h; exact .register rfl nofun
  | feq | rdc | rdw | rde | rdb | rds | csrr => cases h; exact .nothing rfl
  | wre | ste => obtain ⟨rfl, ha⟩ := h; exact .element rfl (by simp [Instr.storesEm]) ha
  | pack => cases h; exact .elements rfl (by rw [List.length_map, length_packBytes_bytes])
  | wrb => obtain ⟨rfl, ha⟩ := h; exact .byte rfl ha
  | wrs => obtain ⟨rfl, ha⟩ := h; exact .seedByte rfl ha
  | genc => obtain ⟨rfl, h1, hn, -⟩ := h; exact .table rfl h1 hn
  | csrw => obtain ⟨c, hc, hu⟩ := h; exact effect_of_writeCsr hc hu
  | clre => cases h; exact .clearRecord rfl

/-- What a command leaves: a fault of its causes with information of that cause, or an effect of one of the kinds and an answer
with status 0. -/
theorem exec_effect (h : exec i s = .next t) :
    (∃ c n, InfoOf i c n ∧ t = s.takeFault c n) ∨ ∃ u v, Effect i s u ∧ t = u.answer 0 v := by
  rcases exec_next h with ⟨c, n, rfl, -, hn⟩ | ⟨u, v, rfl, hu, -⟩
  · exact .inl ⟨c, n, hn, rfl⟩
  · exact .inr ⟨u, v, effect_of_update hu, rfl⟩

end Sys2Proof.Laws
end

section
/-! PROOF. What every command leaves unchanged, and that a computed word is canonical (spec 10_state.md R23, R24, R33 to R35, R43,
R44, 60_exceptions.md R276). -/

namespace Sys2Proof.Laws

open Sys2Proof.Machine

variable {i : Instr} {s t u : State}

/-! ## Registers -/

theorem Effect.reg_eq (h : Effect i s u) {q : Reg} (hq : i.dest ≠ some q) : u.reg q = s.reg q := by
  cases h with
  | register hd _ => rw [State.reg_setReg, if_neg (by rintro rfl; exact hq hd)]
  | _ => rfl

/-- Settles O18: a fault writes no register, and of the effects only one on the destination register does. -/
theorem onlyTheDestinationRegisterChanges : Obligations.OnlyTheDestinationRegisterChanges := by
  intro i s t q h hq
  rcases exec_effect h with ⟨c, n, -, rfl⟩ | ⟨u, v, hu, rfl⟩
  · rfl
  · exact hu.reg_eq hq

/-- A command with a destination register has no other effect than writing it. -/
theorem Effect.eq_setReg (h : Effect i s u) {rd : Reg} (hd : i.dest = some rd) :
    ∃ v, u = s.setReg rd v ∧ (i.computes = true → canonical v = true) := by
  cases h with
  | register hd' hv =>
    obtain rfl : _ = rd := Option.some.inj (hd'.symm.trans hd)
    exact ⟨_, rfl, hv⟩
  | nothing hd' | element hd' => rw [hd'] at hd; cases hd
  | elements hi | byte hi | seedByte hi | table hi | errorEnable hi | roundCount hi | seedLength hi | clearRecord hi =>
    subst hi; cases hd

theorem code_ne_zero (c : Cause) : BitVec.ofNat 4 c.code ≠ 0 := by cases c <;> decide

/-- Settles O21: with status 0 the command took no fault, so its effect is the write of a computed word. -/
theorem computedWordsAreCanonical : Obligations.ComputedWordsAreCanonical := by
  intro i s t rd v hc hd h ha
  rcases exec_effect h with ⟨c, n, -, rfl⟩ | ⟨u, v', hu, rfl⟩
  · injection ha with ha
    exact absurd (congrArg Response.status ha) (code_ne_zero c)
  · obtain ⟨x, rfl, hx⟩ := hu.eq_setReg hd
    rw [State.answer_reg, State.reg_setReg_same]
    exact (canonical_iff x).mp (hx hc)

/-! ## Memories and the table -/

theorem Effect.readEm_eq (h : Effect i s u) {a : Nat} (ha : i.storesEm a = false) : u.readEm a = s.readEm a := by
  cases h with
  | element _ hs _ => rw [State.readEm_writeEm, if_neg (by rintro rfl; simp [hs] at ha)]
  | elements hi hl =>
    subst hi
    have hout : _ ≤ a := hl ▸ not_lt.mp (of_decide_eq_false ha)
    rw [State.readEm_writeEmAll, List.getElem?_eq_none hout, Option.getD_none]
  | _ => rfl

theorem Effect.readBm_eq (h : Effect i s u) {a : Nat} (ha : i.storesBm a = false) : u.readBm a = s.readBm a := by
  cases h with
  | byte hi _ => subst hi; rw [State.readBm_writeBm, if_neg (ne_of_beq_false ha)]
  | _ => rfl

theorem Effect.readSm_eq (h : Effect i s u) {a : Nat} (ha : i.storesSm a = false) : u.readSm a = s.readSm a := by
  cases h with
  | seedByte hi _ => subst hi; rw [State.readSm_writeSm, if_neg (ne_of_beq_false ha)]
  | _ => rfl

theorem Effect.table_eq (h : Effect i s u) (hi : i ≠ .genc) : u.ct = s.ct ∧ u.ctv = s.ctv ∧ u.ctn = s.ctn := by
  cases h with
  | table hg _ _ => exact absurd hg hi
  | _ => exact ⟨rfl, rfl, rfl⟩

/-- Settles O19: a fault writes no memory, and an effect on a memory stays inside the locations the command stores to. -/
theorem onlyTheStoredLocationsChange : Obligations.OnlyTheStoredLocationsChange := by
  intro i s t h
  rcases exec_effect h with ⟨c, n, -, rfl⟩ | ⟨u, v, hu, rfl⟩
  · exact ⟨fun _ _ => rfl, fun _ _ => rfl, fun _ _ => rfl, fun _ => ⟨fun _ => rfl, rfl, rfl⟩⟩
  · refine ⟨fun _ => hu.readEm_eq, fun _ => hu.readBm_eq, fun _ => hu.readSm_eq, fun hi => ?_⟩
    obtain ⟨hct, hctv, hctn⟩ := hu.table_eq hi
    exact ⟨fun a => congrArg (Mem.read wordUnlisted · a) hct, hctv, hctn⟩

/-! ## Configuration and the host's side -/

theorem Effect.eie_eq (h : Effect i s u) (hi : i ≠ .csrw 2) : u.eie = s.eie := by
  cases h with
  | errorEnable hc => exact absurd hc hi
  | _ => rfl

theorem Effect.nrounds_eq (h : Effect i s u) (hi : i ≠ .csrw 3) : u.nrounds = s.nrounds := by
  cases h with
  | roundCount hc => exact absurd hc hi
  | _ => rfl

theorem Effect.seedlen_eq (h : Effect i s u) (hi : i ≠ .csrw 4) : u.seedlen = s.seedlen := by
  cases h with
  | seedLength hc => exact absurd hc hi
  | _ => rfl

theorem Effect.host_eq (h : Effect i s u) : u.script = s.script ∧ u.offer = s.offer ∧ u.taken = s.taken := by
  cases h <;> exact ⟨rfl, rfl, rfl⟩

/-- Settles O20: a fault and every effect but that of the CSRW named leave the register, and all leave the host's side. -/
theorem onlyCsrwChangesTheConfiguration : Obligations.OnlyCsrwChangesTheConfiguration := by
  intro i s t h
  rcases exec_effect h with ⟨c, n, -, rfl⟩ | ⟨u, v, hu, rfl⟩
  · exact ⟨fun _ => rfl, fun _ => rfl, fun _ => rfl, rfl, rfl, rfl⟩
  · exact ⟨hu.eie_eq, hu.nrounds_eq, hu.seedlen_eq, hu.host_eq⟩

end Sys2Proof.Laws
end

section
/-! PROOF. Reset leaves the reset state and meets the invariant, and every step keeps the invariant (spec 10_state.md R36 to R39, R42,
R44, R50, 60_exceptions.md R271, R272, R276). -/

namespace Sys2Proof.Laws

open Sys2Proof.Machine

/-! ## Reset -/

theorem seedUnlisted_of_four_le {a : Nat} (ha : 4 ≤ a) : seedUnlisted a = 0 := by
  obtain ⟨k, rfl⟩ := Nat.exists_eq_add_of_le' ha
  rfl

/-- A memory made from a list of values reads as the list, inside its depth. -/
theorem read_ofValues {n : Nat} (d : Nat → BitVec n) {depth a : Nat} {vs : List (BitVec n)} {v : BitVec n} (ha : a < depth)
    (hv : vs[a]? = some v) : Mem.read d (Mem.ofValues d depth vs) a = v := by
  rw [Mem.ofValues, Mem.read_writeFrom, if_pos (Nat.zero_le a), Nat.sub_zero, List.getElem?_take_of_lt ha, hv, Option.getD_some]

/-- Settles O12: the registers are those of `State.reset`, EM and BM hold the image. -/
theorem resetLeavesTheResetState : Obligations.ResetLeavesTheResetState := by
  intro img
  have hreg : ∀ r : Reg, (State.resetWith img).reg r = 0 := fun r => Vector.getElem_replicate r.isLt
  exact ⟨hreg, rfl, rfl, rfl, rfl, rfl, fun _ => seedUnlisted_of_four_le, rfl, rfl, rfl, rfl,
    fun _ _ ha hv => read_ofValues wordUnlisted ha hv, fun _ _ ha hb => read_ofValues byteUnlisted ha hb, rfl, rfl⟩

theorem resetWith_inv (img : Image) : (State.resetWith img).Inv := by
  obtain ⟨-, -, hsm, hct⟩ := State.reset_memories
  have hmem : (State.resetWith img).MemoriesOk := ⟨Mem.wf_ofValues _ _ _, Mem.wf_ofValues _ _ _, hsm, hct⟩
  have htable : (State.resetWith img).TableOk := ⟨Nat.zero_le _, iff_of_true rfl rfl, nofun, nofun⟩
  have hrecord : (State.resetWith img).RecordOk :=
    ⟨Nat.zero_le _, iff_of_true rfl rfl, fun h => absurd rfl h, fun b _ hb => by simp [State.resetWith, State.reset] at hb, rfl⟩
  exact ⟨hmem, htable, hrecord, rfl⟩

/-- Settles O24: `State.reset` is the reset with the empty image. -/
theorem resetMeetsTheInvariant : Obligations.ResetMeetsTheInvariant := ⟨resetWith_inv ⟨[], []⟩, resetWith_inv⟩

/-! ## Taking a fault -/

/-- The bits of ESTICKY after a fault: those before and the one of the cause (R39, R276). -/
theorem getLsbD_esticky_takeFault (s : State) (c : Cause) (n : Nat) {b : Nat} (hb : b < 16) :
    (s.takeFault c n).esticky.getLsbD b = (s.esticky.getLsbD b || decide (b = c.code)) := by
  have hbit : ((1 <<< c.code : Nat) : BitVec 16).getLsbD b = decide (b = c.code) := by
    rw [BitVec.natCast_eq_ofNat, BitVec.getLsbD_ofNat, Nat.one_shiftLeft, Nat.testBit_two_pow]
    simp [hb, eq_comm]
  rw [State.takeFault_esticky, BitVec.getLsbD_or, hbit]

theorem one_le_code (c : Cause) : 1 ≤ c.code := by cases c <;> decide

theorem code_le_six (c : Cause) : c.code ≤ 6 := by cases c <;> decide

theorem toNat_code (c : Cause) : (BitVec.ofNat 4 c.code).toNat = c.code := by cases c <;> rfl

/-- The information a command gives with a cause is one of the cause, and fits the 16 bits of EINFO (R38, R272). -/
theorem infoOk_of_infoOf {i : Instr} (hw : i.wellFormed = true) {c : Cause} {n : Nat} (h : InfoOf i c n) :
    infoOk c.code n = true ∧ n < 2 ^ 16 := by
  cases c with
  | oof =>
    rcases h with ⟨r, rfl⟩ | hn
    · have hr := r.isLt
      exact ⟨by simp only [infoOk, Cause.code, Bool.or_eq_true, Bool.and_eq_true, decide_eq_true_eq]; omega, by omega⟩
    · have hn : n < 256 := hn
      exact ⟨by simp only [infoOk, Cause.code, Bool.or_eq_true, Bool.and_eq_true, decide_eq_true_eq]; omega, by omega⟩
  | illcmd => exact h.elim
  | notready => cases h; decide
  | badcfg => rcases h with rfl | rfl <;> decide
  | badarg | badcsr =>
    have hn : n < 4096 := h hw
    exact ⟨decide_eq_true (by omega : n ≤ 0x0FFF), by omega⟩

/-- Taking a fault keeps the record as R37 to R39 and R272 say, when the information is one of the cause. -/
theorem takeFault_recordOk {s : State} {c : Cause} {n : Nat} (hs : s.RecordOk) (hi : infoOk c.code n = true) (hn : n < 2 ^ 16) :
    (s.takeFault c n).RecordOk := by
  obtain ⟨-, -, -, hreserved, -⟩ := hs
  have hcode := code_le_six c
  have hset : (s.takeFault c n).esticky.getLsbD c.code = true := by
    rw [getLsbD_esticky_takeFault s c n (by omega), decide_eq_true rfl, Bool.or_true]
  have hne : (s.takeFault c n).esticky ≠ 0 := by
    intro h0
    rw [h0] at hset
    simp at hset
  refine ⟨?_, ?_, ?_, ?_, ?_⟩
  · rwa [State.takeFault_ecause, toNat_code]
  · exact iff_of_false (code_ne_zero c) hne
  · intro _; rwa [State.takeFault_ecause, toNat_code]
  · intro b hb hbit
    rw [getLsbD_esticky_takeFault s c n hb, Bool.or_eq_true, decide_eq_true_eq] at hbit
    rcases hbit with hold | rfl
    · exact hreserved b hb hold
    · exact ⟨one_le_code c, hcode⟩
  · rwa [State.takeFault_ecause, toNat_code, State.takeFault_einfo, BitVec.toNat_ofNat, Nat.mod_eq_of_lt hn]

theorem takeFault_inv {s : State} {c : Cause} {n : Nat} (hs : s.Inv) (hi : infoOk c.code n = true) (hn : n < 2 ^ 16) :
    (s.takeFault c n).Inv := by
  obtain ⟨hmem, htable, hrecord, -⟩ := hs
  exact ⟨hmem, htable, takeFault_recordOk hrecord hi hn, by cases c <;> rfl⟩

/-! ## Completing a command -/

section

variable {i : Instr} {s t u : State}

theorem chunkCount_le_emDepth {len : Nat} (h : len < 4096) : chunkCount len ≤ Config.emDepth := by
  unfold chunkCount Config.chunk Config.emDepth; omega

theorem Effect.memoriesOk (h : Effect i s u) (hw : i.wellFormed = true) (hs : s.MemoriesOk) : u.MemoriesOk := by
  obtain ⟨hem, hbm, hsm, hct⟩ := hs
  cases h with
  | element _ _ ha => exact ⟨Mem.wf_write _ hem ha _, hbm, hsm, hct⟩
  | elements hi hl =>
    subst hi
    have hfit := chunkCount_le_emDepth (fits hw)
    exact ⟨Mem.wf_writeFrom _ _ hem (by omega), hbm, hsm, hct⟩
  | byte _ ha => exact ⟨hem, Mem.wf_write _ hbm ha _, hsm, hct⟩
  | seedByte _ ha => exact ⟨hem, hbm, Mem.wf_write _ hsm ha _, hct⟩
  | table _ h1 hn =>
    exact ⟨hem, hbm, hsm, Mem.wf_writeFrom _ _ (Mem.wf_nil _ _) (by rw [List.length_map, length_genconst _ h1]; omega)⟩
  | _ => exact ⟨hem, hbm, hsm, hct⟩

/-- The table GENC leaves: as long as asked, `CT[0]` zero, every entry reduced (R36, R42, R140). -/
theorem setTable_genconst_tableOk (s : State) (seed : List Byte) {n : Nat} (h1 : 1 ≤ n) (hn : n ≤ Config.nrMax) :
    (s.setTable ((genconst seed n).map toWord)).TableOk := by
  have hlen := length_genconst seed h1
  have hctn : (s.setTable ((genconst seed n).map toWord)).ctn.toNat = n := by
    unfold Config.nrMax at hn
    rw [State.setTable_ctn, List.length_map, hlen, BitVec.toNat_ofNat]
    omega
  refine ⟨hctn.le.trans hn, iff_of_false nofun fun h0 => ?_, fun _ => ?_, fun j hj => ?_⟩
  · rw [h0] at hctn
    have hn0 : 0 = n := hctn
    omega
  · rw [State.readCt_setTable]; rfl
  · have hj : j < (genconst seed n).length := by omega
    rw [State.readCt_setTable, List.getElem?_map, List.getElem?_eq_getElem hj]
    exact canonical_toWord (genconst_lt _ (List.getElem_mem hj))

theorem Effect.tableOk (h : Effect i s u) (hs : s.TableOk) : u.TableOk := by
  cases h with
  | table _ h1 hn => exact setTable_genconst_tableOk s _ h1 hn
  | _ => exact hs

theorem clearFaults_recordOk (s : State) : s.clearFaults.RecordOk :=
  ⟨Nat.zero_le _, iff_of_true rfl rfl, fun h => absurd rfl h, fun b _ hb => by simp at hb, rfl⟩

theorem Effect.recordOk (h : Effect i s u) (hs : s.RecordOk) : u.RecordOk := by
  cases h with
  | clearRecord => exact clearFaults_recordOk s
  | _ => exact hs

theorem exec_inv (hw : i.wellFormed = true) (hs : s.Inv) (h : exec i s = .next t) : t.Inv := by
  rcases exec_effect h with ⟨c, n, hn, rfl⟩ | ⟨u, v, hu, rfl⟩
  · obtain ⟨hinfo, hlt⟩ := infoOk_of_infoOf hw hn
    exact takeFault_inv hs hinfo hlt
  · obtain ⟨hmem, htable, hrecord, -⟩ := hs
    exact ⟨hu.memoriesOk hw hmem, hu.tableOk htable, hu.recordOk hrecord, rfl⟩

end

/-! ## Steps -/

/-- A command that a word decodes to is well formed: its immediate is the 12-bit field of the word (R91, R92). -/
theorem wellFormed_of_decode {w : BitVec 32} {i : Instr} (h : decode w = .ok i) : i.wellFormed = true := by
  have himm : immFits (immField w) = true := decide_eq_true (Nat.mod_lt _ (by decide))
  unfold decode commandOf at h
  split at h
  · cases h
  · next hrow =>
    split at h
    · cases h
      split at hrow <;> cases hrow <;> simp [Instr.wellFormed, himm]
    · cases h

/-- Settles O25: an edge without execution leaves all that the invariant speaks of but the port, a reset edge leaves the reset
state, and an executed word faults or completes. -/
theorem everyStepKeepsTheInvariant : Obligations.EveryStepKeepsTheInvariant := by
  intro s t hs h
  have hbusy : s.busyEdge.Inv := hs
  obtain ⟨hmem, htable, hrecord, -⟩ := id hs
  rcases step_next h with ⟨img, -, rfl⟩ | ⟨-, hedge⟩
  · exact resetWith_inv img
  rcases hedge with ⟨-, -, rfl⟩ | ⟨c, -, -, -, rfl⟩ | ⟨c, i, -, hd, hx⟩ | ⟨c, e, -, -, rfl⟩ | ⟨r, -, -, rfl⟩ | ⟨r, -, -, rfl⟩
  · exact hs
  · exact ⟨hmem, htable, hrecord, rfl⟩
  · exact exec_inv (wellFormed_of_decode hd) hbusy hx
  · exact takeFault_inv hbusy rfl (by decide)
  · exact ⟨hmem, htable, hrecord, rfl⟩
  · exact hbusy

end Sys2Proof.Laws
end

section
/-! PROOF. The table entries that no command can read cannot be observed (spec 10_state.md R42, R43, 93_implementation_defined.md U2):
a change of state that an operand's checks do not see commutes with the operand, and so with the command. -/

namespace Sys2Proof.Laws

open Sys2Proof.Machine

/-! ## Operands under a change of state -/

section

variable {f : State → State} {s : State}

/-- `f` changes only what taking a fault neither reads nor writes. -/
def CommutesWithFaults (f : State → State) : Prop := ∀ s c n, (f s).takeFault c n = f (s.takeFault c n)

theorem raise_mapNext (hf : CommutesWithFaults f) (c : Cause) (n : Nat) : raise (f s) c n = mapNext f (raise s c n) :=
  congrArg Host.Outcome.next (hf s c n)

theorem withField_mapNext (hf : CommutesWithFaults f) {r : Reg} {k k' : Nat → Outcome} (hr : (f s).reg r = s.reg r)
    (hk : ∀ v, k' v = mapNext f (k v)) : withField (f s) r k' = mapNext f (withField s r k) := by
  unfold withField
  rw [hr]
  split
  · exact hk _
  · exact raise_mapNext hf _ _

theorem withTable_mapNext (hf : CommutesWithFaults f) {k k' : List Nat → Outcome} (hv : (f s).ctv = s.ctv)
    (ht : s.ctv = true → (f s).table = s.table) (hk : s.ctv = true → k' s.table = mapNext f (k s.table)) :
    withTable (f s) k' = mapNext f (withTable s k) := by
  unfold withTable
  rw [hv]
  split
  · next hc => rw [ht hc]; exact hk hc
  · exact raise_mapNext hf _ _

theorem withArg_mapNext (hf : CommutesWithFaults f) {imm : Nat} {legal : Bool} {k k' : Outcome}
    (hk : legal = true → k' = mapNext f k) : withArg (f s) imm legal k' = mapNext f (withArg s imm legal k) := by
  unfold withArg
  split
  · next hl => exact hk hl
  · exact raise_mapNext hf _ _

theorem withElements_mapNext (hf : CommutesWithFaults f) {n : Nat} {k k' : List Nat → Outcome}
    (he : ∀ a, (f s).readEm a = s.readEm a) (hk : ∀ l, k' l = mapNext f (k l)) :
    withElements (f s) n k' = mapNext f (withElements s n k) := by
  have hfirst : (f s).firstOutOfField n = s.firstOutOfField n := by simp only [State.firstOutOfField, he]
  have helements : (f s).elements n = s.elements n := by simp only [State.elements, he]
  unfold withElements
  rw [hfirst, helements]
  split
  · exact raise_mapNext hf _ _
  · exact hk _

end

/-! ## Another memory in place of the table -/

/-- The state with `m` in place of the constants table. -/
def withCt (m : Mem 256) (s : State) : State := { s with ct := m }

/-- `m` holds the readable entries of the table: those below CTN while CTV is 1 (R42). -/
def AgreesOnTable (s : State) (m : Mem 256) : Prop :=
  s.ctv = true → ∀ j, j < s.ctn.toNat → Mem.read wordUnlisted m j = s.readCt j

variable {s : State} {m : Mem 256}

theorem withCt_commutesWithFaults (m : Mem 256) : CommutesWithFaults (withCt m) := fun _ _ _ => rfl

theorem table_withCt (h : AgreesOnTable s m) (hv : s.ctv = true) : (withCt m s).table = s.table :=
  List.map_congr_left fun j hj => congrArg BitVec.toNat (h hv j (List.mem_range.mp hj))

theorem execCsrr_withCt (imm : Nat) : execCsrr imm (withCt m s) = mapNext (withCt m) (execCsrr imm s) := by
  unfold execCsrr
  cases csrOf imm with
  | none => rfl
  | some c => cases c <;> rfl

theorem execCsrw_withCt (imm : Nat) : execCsrw imm (withCt m s) = mapNext (withCt m) (execCsrw imm s) := by
  unfold execCsrw
  cases csrOf imm with
  | none => rfl
  | some c => cases c <;> rfl

/-- A command but GENC does the same with any memory that holds the readable entries of the table. -/
theorem exec_withCt (h : AgreesOnTable s m) {i : Instr} (hi : i ≠ .genc) :
    exec i (withCt m s) = mapNext (withCt m) (exec i s) := by
  have hf := withCt_commutesWithFaults m
  have ht := table_withCt h
  cases i with
  | fadd | fmul | feq => exact withField_mapNext hf rfl fun _ => withField_mapNext hf rfl fun _ => by rfl
  | fsqr rd ra =>
    show execFsqr rd ra _ = mapNext _ (execFsqr rd ra s)
    exact withField_mapNext hf rfl fun _ => rfl
  | genc => exact absurd rfl hi
  | rdc imm =>
    show execRdc imm _ = mapNext _ (execRdc imm s)
    refine withTable_mapNext hf rfl ht fun hv => withArg_mapNext hf fun hl => ?_
    have hread : (withCt m s).readCt imm = s.readCt imm := h hv imm (of_decide_eq_true hl)
    rw [hread]; rfl
  | perm rd ra rb =>
    show execPerm rd ra rb _ = mapNext _ (execPerm rd ra rb s)
    exact withTable_mapNext hf rfl ht fun _ => withField_mapNext hf rfl fun _ => withField_mapNext hf rfl fun _ => rfl
  | hashk rd ra imm =>
    show execHashk rd ra imm _ = mapNext _ (execHashk rd ra imm s)
    exact withTable_mapNext hf rfl ht fun _ => withArg_mapNext hf fun _ => withField_mapNext hf rfl fun _ =>
      withElements_mapNext hf (fun _ => rfl) fun _ => rfl
  | hashz rd imm =>
    show execHashz rd imm _ = mapNext _ (execHashz rd imm s)
    exact withTable_mapNext hf rfl ht fun _ => withArg_mapNext hf fun _ => withElements_mapNext hf (fun _ => rfl) fun _ => rfl
  | hashb rd imm =>
    show execHashb rd imm _ = mapNext _ (execHashb rd imm s)
    exact withTable_mapNext hf rfl ht fun _ => rfl
  | wre | rde | wrb | rdb | wrs | rds | lde | ste => exact withArg_mapNext hf fun _ => by rfl
  | csrr imm => exact execCsrr_withCt imm
  | csrw imm => exact execCsrw_withCt imm
  | fred | pack | ldw | rdw | clre => rfl

/-- What GENC leaves: a fault with the table as it was, or a new table that does not depend on the old one. -/
theorem execGenc_withCt (m : Mem 256) {t : State} (h : exec .genc s = .next t) :
    (exec .genc (withCt m s) = .next (withCt m t) ∧ t.ctv = s.ctv ∧ t.ctn = s.ctn ∧ t.ct = s.ct) ∨
      exec .genc (withCt m s) = .next t := by
  change execGenc s = .next t at h
  change (execGenc (withCt m s) = _ ∧ _) ∨ execGenc (withCt m s) = _
  unfold execGenc at h ⊢
  split at h
  · next hn => cases h; exact .inl ⟨if_pos hn, rfl, rfl, rfl⟩
  · next hn =>
    split at h
    · next hl => cases h; exact .inl ⟨(if_neg hn).trans (if_pos hl), rfl, rfl, rfl⟩
    · next hl => cases h; exact .inr ((if_neg hn).trans (if_neg hl))

/-- Settles O22: the commands that use the table read only entries below CTN while CTV is 1, and GENC reads none. -/
theorem unreadableTableEntriesAreUnobservable : Obligations.UnreadableTableEntriesAreUnobservable := by
  intro i s m hm
  refine ⟨exec_withCt hm, fun t h => ?_⟩
  rcases execGenc_withCt m h with ⟨h', hctv, hctn, hct⟩ | h'
  · have hagree : AgreesOnTable t m := by simpa only [AgreesOnTable, State.readCt, hctv, hctn, hct] using hm
    exact ⟨withCt m t, h', rfl, hagree⟩
  · exact ⟨t, h', rfl, fun _ _ _ => rfl⟩

end Sys2Proof.Laws
end

section
/-! PROOF. Decoder and encoder are inverse, and the decoder accepts what the table of match and mask does (spec 30_encoding.md R91 to
R94, R98). A command is taken apart into its opcode, its format and the values of the operand fields. -/

namespace Sys2Proof

/-! ## The parts of a command -/

/-- The values of the four operand fields of a command word (R91). -/
@[ext] structure Operands where
  rd : Reg
  ra : Reg
  rb : Reg
  imm : Nat

/-- The operand fields of a word. -/
def operandFields (w : BitVec 32) : Operands := ⟨rdField w, raField w, rbField w, immField w⟩

/-- The operand fields of a command, the unused ones zero (R91). -/
def Instr.operands : Instr → Operands
  | .fadd rd ra rb | .fmul rd ra rb | .perm rd ra rb => ⟨rd, ra, rb, 0⟩
  | .fsqr rd ra | .fred rd ra => ⟨rd, ra, 0, 0⟩
  | .feq ra rb => ⟨0, ra, rb, 0⟩
  | .hashk rd ra imm => ⟨rd, ra, 0, imm⟩
  | .hashz rd imm | .hashb rd imm | .lde rd imm => ⟨rd, 0, 0, imm⟩
  | .ste ra imm => ⟨0, ra, 0, imm⟩
  | .ldw rd => ⟨rd, 0, 0, 0⟩
  | .rdw ra => ⟨0, ra, 0, 0⟩
  | .rdc imm | .pack imm | .wre imm | .rde imm | .wrb imm | .rdb imm | .wrs imm | .rds imm => ⟨0, 0, 0, imm⟩
  | .csrr imm | .csrw imm => ⟨0, 0, 0, imm⟩
  | .genc | .clre => ⟨0, 0, 0, 0⟩

/-- The format of a command (R93). -/
def Instr.format : Instr → Format
  | .fadd _ _ _ | .fmul _ _ _ | .perm _ _ _ => .DAB
  | .fsqr _ _ | .fred _ _ => .DA
  | .feq _ _ => .AB
  | .hashk _ _ _ => .DAI
  | .hashz _ _ | .hashb _ _ | .lde _ _ => .DI
  | .ste _ _ => .AI
  | .ldw _ => .D
  | .rdw _ => .A
  | .rdc _ | .pack _ | .wre _ | .rde _ | .wrb _ | .rdb _ | .wrs _ | .rds _ | .csrr _ | .csrw _ => .I
  | .genc | .clre => .N

/-- The operands with the fields that the format does not use set to zero. -/
def Format.restrict (f : Format) (o : Operands) : Operands :=
  ⟨if f.usesRd then o.rd else 0, if f.usesRa then o.ra else 0, if f.usesRb then o.rb else 0, if f.usesImm then o.imm else 0⟩

/-- The commands that the operands can make, in the order of the table of R93. -/
def commandsWith (o : Operands) : List Instr :=
  [.fadd o.rd o.ra o.rb, .fmul o.rd o.ra o.rb, .fsqr o.rd o.ra, .fred o.rd o.ra, .feq o.ra o.rb, .genc, .rdc o.imm,
    .perm o.rd o.ra o.rb, .hashk o.rd o.ra o.imm, .hashz o.rd o.imm, .pack o.imm, .hashb o.rd o.imm, .ldw o.rd, .rdw o.ra,
    .wre o.imm, .rde o.imm, .wrb o.imm, .rdb o.imm, .wrs o.imm, .rds o.imm, .lde o.rd o.imm, .ste o.ra o.imm, .csrr o.imm,
    .csrw o.imm, .clre]

variable {w : BitVec 32} {i : Instr}

theorem mem_commandsWith_operands (i : Instr) : i ∈ commandsWith i.operands := by
  cases i <;> simp [commandsWith, Instr.operands]

theorem commandOf_of_mem_commandsWith {o : Operands} (h : i ∈ commandsWith o) :
    commandOf i.opcode o.rd o.ra o.rb o.imm = some (i.format, i) :=
  have hrows : (commandsWith o).map (fun i => commandOf i.opcode o.rd o.ra o.rb o.imm) =
      (commandsWith o).map fun i => some (i.format, i) := rfl
  List.map_inj_left.mp hrows i h

theorem encode_eq_commandWord (i : Instr) :
    encode i = commandWord i.opcode i.operands.rd i.operands.ra i.operands.rb i.operands.imm := by
  cases i <;> rfl

theorem commandOf_operands (i : Instr) :
    commandOf i.opcode i.operands.rd i.operands.ra i.operands.rb i.operands.imm = some (i.format, i) :=
  commandOf_of_mem_commandsWith (mem_commandsWith_operands i)

/-- A row of the command set yields the command with the row's opcode and format and the operands that the format uses. -/
theorem parts_of_commandOf {op : Nat} {o : Operands} {f : Format} (h : commandOf op o.rd o.ra o.rb o.imm = some (f, i)) :
    i.opcode = op ∧ i.format = f ∧ i.operands = f.restrict o := by
  unfold commandOf at h
  split at h <;> cases h <;> exact ⟨rfl, rfl, rfl⟩

theorem restrict_operands (i : Instr) : i.format.restrict i.operands = i.operands :=
  (parts_of_commandOf (commandOf_operands i)).2.2.symm

theorem operands_imm_lt (h : i.wellFormed = true) : i.operands.imm < 4096 := by
  cases i with
  | fadd | fmul | fsqr | fred | feq | genc | perm | ldw | rdw | clre => exact Nat.zero_lt_succ _
  | rdc | hashk | hashz | pack | hashb | wre | rde | wrb | rdb | wrs | rds | lde | ste | csrr | csrw => exact of_decide_eq_true h

/-- A used field may hold anything, an unused one must hold zero. -/
theorem used_or_eq_zero_iff {α : Type} [DecidableEq α] (used : Bool) (x zero : α) :
    (used || x == zero) = true ↔ (if used then x else zero) = x := by
  cases used with
  | false => exact beq_iff_eq.trans eq_comm
  | true => exact iff_of_true rfl rfl

theorem unusedZero_iff (f : Format) (w : BitVec 32) :
    f.unusedZero w = true ↔ f.restrict (operandFields w) = operandFields w := by
  simp only [Format.unusedZero, Format.restrict, operandFields, Bool.and_eq_true, used_or_eq_zero_iff, Operands.mk.injEq, and_assoc]

theorem unusedZero_of_operands (h : operandFields w = i.operands) : i.format.unusedZero w = true := by
  rw [unusedZero_iff, h, restrict_operands]

/-! ## Decoding and encoding -/

/-- A word decodes to a command exactly when it carries the command's opcode and operands, the unused fields zero (R94). -/
theorem decode_eq_ok_iff : decode w = .ok i ↔ opField w = i.opcode ∧ operandFields w = i.operands := by
  constructor
  · intro h
    unfold decode at h
    split at h
    · cases h
    · next f j hrow =>
      obtain ⟨hop, -, hoperands⟩ := parts_of_commandOf (o := operandFields w) hrow
      split at h
      · next hzero =>
        cases h
        exact ⟨hop.symm, (hoperands.trans ((unusedZero_iff f w).mp hzero)).symm⟩
      · cases h
  · rintro ⟨hop, hoperands⟩
    have hrow := commandOf_operands i
    rw [← hop, ← hoperands] at hrow
    exact (decode_of_row hrow).trans (if_pos (unusedZero_of_operands hoperands))

theorem operandFields_commandWord (op : Nat) (rd ra rb : Reg) (imm : Nat) (ho : op < 256) (hi : imm < 4096) :
    operandFields (commandWord op rd ra rb imm) = ⟨rd, ra, rb, imm⟩ :=
  Operands.ext (rdField_commandWord _ _ _ _ _ ho hi) (raField_commandWord _ _ _ _ _ ho hi) (rbField_commandWord _ _ _ _ _ ho hi)
    (immField_commandWord _ _ _ _ _ ho hi)

/-- Settles O1: the fields of the layout are read back one by one. -/
theorem decodeOfEncodeIsTheCommand : Obligations.DecodeOfEncodeIsTheCommand := by
  intro i hw
  have ho := opcode_lt i
  have himm := operands_imm_lt hw
  rw [decode_eq_ok_iff, encode_eq_commandWord]
  exact ⟨opField_commandWord _ _ _ _ _ ho himm, operandFields_commandWord _ _ _ _ _ ho himm⟩

/-- Settles O2: the command's layout is that of the word's own fields. -/
theorem encodeOfDecodeIsTheWord : Obligations.EncodeOfDecodeIsTheWord := by
  intro w i h
  obtain ⟨hop, hoperands⟩ := decode_eq_ok_iff.mp h
  refine ⟨Laws.wellFormed_of_decode h, ?_⟩
  rw [encode_eq_commandWord, ← hop, ← hoperands]
  exact commandWord_fields w

/-- Settles O4: each word is the encoding of its command. -/
theorem writtenOutWordsDecode : Obligations.WrittenOutWordsDecode := by
  have h := decodeOfEncodeIsTheCommand
  exact ⟨h (.ldw 1) rfl, h (.fadd 3 1 2) rfl, h (.hashk 0 4 2) rfl, h (.wrs 0) rfl, h (.csrw 3) rfl, h (.rdw 3) rfl,
    h (.hashk 5 4 3) rfl, h (.perm 10 11 12) rfl, h (.csrr 9) rfl⟩

/-! ## Match and mask -/

/-- The operands masked field by field. -/
def Operands.and (o p : Operands) : Operands := ⟨o.rd &&& p.rd, o.ra &&& p.ra, o.rb &&& p.rb, o.imm &&& p.imm⟩

theorem opField_and (v w : BitVec 32) : opField (v &&& w) = opField v &&& opField w := Nat.and_div_two_pow

/-- A 4-bit field of a masked word is the field masked. -/
theorem ofNat_and_div (v w : BitVec 32) (k : Nat) :
    Fin.ofNat 16 ((v &&& w).toNat / 2 ^ k) = Fin.ofNat 16 (v.toNat / 2 ^ k) &&& Fin.ofNat 16 (w.toNat / 2 ^ k) := by
  have hmask (a b : Nat) : Fin.ofNat 16 (a &&& b) = Fin.ofNat 16 a &&& Fin.ofNat 16 b := by
    apply Fin.ext
    show (a &&& b) % 2 ^ 4 = (a % 2 ^ 4 &&& b % 2 ^ 4) % 2 ^ 4
    rw [← Nat.and_mod_two_pow, Nat.mod_mod]
  rw [BitVec.toNat_and, Nat.and_div_two_pow, hmask]

theorem rdField_and (v w : BitVec 32) : rdField (v &&& w) = rdField v &&& rdField w := ofNat_and_div v w 20

theorem raField_and (v w : BitVec 32) : raField (v &&& w) = raField v &&& raField w := ofNat_and_div v w 16

theorem rbField_and (v w : BitVec 32) : rbField (v &&& w) = rbField v &&& rbField w := ofNat_and_div v w 12

theorem immField_and (v w : BitVec 32) : immField (v &&& w) = immField v &&& immField w := Nat.and_mod_two_pow (n := 12)

theorem operandFields_and (v w : BitVec 32) : operandFields (v &&& w) = (operandFields v).and (operandFields w) :=
  Operands.ext (rdField_and v w) (raField_and v w) (rbField_and v w) (immField_and v w)

/-- Two words are equal exactly when their fields are. -/
theorem eq_iff_fields (v w : BitVec 32) : v = w ↔ opField v = opField w ∧ operandFields v = operandFields w := by
  refine ⟨by rintro rfl; exact ⟨rfl, rfl⟩, fun ⟨hop, hoperands⟩ => ?_⟩
  injection hoperands with hrd hra hrb himm
  rw [← commandWord_fields v, ← commandWord_fields w, hop, hrd, hra, hrb, himm]

/-- The row of the table of R93 for a command: the match is the opcode alone, the mask covers the opcode and every unused field. -/
def Instr.row (i : Instr) : OpcodeRow where
  mnemonic := i.mnemonic
  pattern := commandWord i.opcode 0 0 0 0
  mask := commandWord 255 (if i.format.usesRd then 0 else 15) (if i.format.usesRa then 0 else 15)
    (if i.format.usesRb then 0 else 15) (if i.format.usesImm then 0 else 4095)

/-- The rows of the commands are the table, whatever their operands. -/
theorem map_row_commandsWith (o : Operands) : (commandsWith o).map Instr.row = opcodeTable :=
  calc (commandsWith o).map Instr.row
    _ = (commandsWith ⟨0, 0, 0, 0⟩).map Instr.row := rfl
    _ = opcodeTable := by decide

theorem row_mem_opcodeTable (i : Instr) : i.row ∈ opcodeTable :=
  map_row_commandsWith i.operands ▸ List.mem_map_of_mem (mem_commandsWith_operands i)

/-- Under the mask, zero is left of a register field exactly when the field is used or zero. -/
theorem masked_reg_eq_zero_iff (used : Bool) (r : Reg) :
    r &&& (if used then 0 else 15) = 0 ↔ (used || r == 0) = true := by
  revert used r
  decide

/-- Under the mask, zero is left of the immediate exactly when it is used or zero. -/
theorem masked_imm_eq_zero_iff (used : Bool) {n : Nat} (hn : n < 2 ^ 12) :
    n &&& (if used then 0 else 4095) = 0 ↔ (used || n == 0) = true := by
  cases used with
  | false =>
    have hkeep : n &&& 4095 = n := Nat.and_two_pow_sub_one_of_lt_two_pow hn
    simp [hkeep]
  | true => simp

theorem matchesWord_row_iff (i : Instr) (w : BitVec 32) :
    i.row.matchesWord w = true ↔ opField w = i.opcode ∧ i.format.unusedZero w = true := by
  have hw := w.isLt
  have hop : opField w &&& 255 = opField w := Nat.and_two_pow_sub_one_of_lt_two_pow (n := 8) (by unfold opField; omega)
  have himm : immField w < 2 ^ 12 := Nat.mod_lt _ (by decide)
  have ho := opcode_lt i
  have hcover : (if i.format.usesImm then 0 else 4095) < 4096 := by split <;> decide
  rw [OpcodeRow.matchesWord, beq_iff_eq, eq_iff_fields, opField_and, operandFields_and, Instr.row,
    opField_commandWord _ _ _ _ _ ho (by decide), operandFields_commandWord _ _ _ _ _ ho (by decide),
    opField_commandWord _ _ _ _ _ (by decide) hcover, operandFields_commandWord _ _ _ _ _ (by decide) hcover, hop]
  simp only [Operands.and, operandFields, Operands.mk.injEq, masked_reg_eq_zero_iff, masked_imm_eq_zero_iff _ himm,
    Format.unusedZero, Bool.and_eq_true, and_assoc]

/-- A row of the table that matches a word is the row of the command that the word decodes to. -/
theorem decode_of_matchesWord {r : OpcodeRow} (hr : r ∈ opcodeTable) (hm : r.matchesWord w = true) :
    ∃ i, decode w = .ok i ∧ i.row = r := by
  rw [← map_row_commandsWith (operandFields w)] at hr
  obtain ⟨i, hi, rfl⟩ := List.mem_map.mp hr
  obtain ⟨hop, hzero⟩ := (matchesWord_row_iff i w).mp hm
  have hrow := commandOf_of_mem_commandsWith hi
  rw [← hop] at hrow
  exact ⟨i, (decode_of_row hrow).trans (if_pos hzero), rfl⟩

/-- The row of the command that a word decodes to matches the word. -/
theorem matchesWord_of_decode (h : decode w = .ok i) : i.row.matchesWord w = true := by
  obtain ⟨hop, hoperands⟩ := decode_eq_ok_iff.mp h
  exact (matchesWord_row_iff i w).mpr ⟨hop, unusedZero_of_operands hoperands⟩

/-- Settles O3: the rows that match a word are exactly the row of the command that it decodes to. -/
theorem decoderFollowsMatchAndMask : Obligations.DecoderFollowsMatchAndMask := by
  refine ⟨fun w r hr hm => ?_, fun w hno => ?_, fun w r hr r' hr' hm hm' => ?_⟩
  · obtain ⟨i, hi, rfl⟩ := decode_of_matchesWord hr hm
    exact ⟨i, hi, rfl⟩
  · cases h : decode w with
    | error e => exact ⟨e, rfl⟩
    | ok i => exact absurd (matchesWord_of_decode h) (by simp [hno i.row (row_mem_opcodeTable i)])
  · obtain ⟨i, hi, rfl⟩ := decode_of_matchesWord hr hm
    obtain ⟨j, hj, rfl⟩ := decode_of_matchesWord hr' hm'
    have hij : i = j := Except.ok.inj (hi.symm.trans hj)
    rw [hij]

end Sys2Proof
end

section
/-! PROOF. What the machine makes of a command word: the command it decodes to or ILLCMD, with the write data where the command uses
it (spec 30_encoding.md R90, R94, R95, 70_reset_and_hazards.md R318). -/

namespace Sys2Proof.Laws

open Sys2Proof.Machine

variable {w : BitVec 32} {i : Instr}

/-! ## Illegal words and the step -/

theorem execWord_of_ok (h : decode w = .ok i) (s : State) : execWord w s = exec i s := by
  rw [execWord, h]

theorem execWord_of_error {e : Illegal} (h : decode w = .error e) (s : State) :
    execWord w s = .next (s.takeFault .illcmd 0) := by
  rw [execWord, h]; rfl

/-- Settles O6: only the opcode of a command has a row in the command set. -/
theorem illegalWordRaisesIllcmd : Obligations.IllegalWordRaisesIllcmd := by
  refine ⟨fun w e s h => execWord_of_error h s, fun w hop => decode_of_no_row ?_, decode_of_no_row rfl, decode_of_no_row rfl⟩
  rw [Option.eq_none_iff_forall_ne_some]
  rintro ⟨f, i⟩ hrow
  obtain ⟨hi, -, -⟩ := parts_of_commandOf (o := operandFields w) hrow
  have hmem : i.opcode ∈ (commandsWith i.operands).map Instr.opcode := List.mem_map_of_mem (mem_commandsWith_operands i)
  exact hop (hi ▸ hmem)

/-- Settles O5: without reset the edge at an accepted command is its execution. -/
theorem stepRunsTheDecodedCommand : Obligations.StepRunsTheDecodedCommand := by
  intro s c hport hrst
  have hstep : step s = execWord c.word s.busyEdge := by rw [step, hrst, hport]
  have hwdata : s.busyEdge.wdata = c.wdata := by rw [State.busyEdge_wdata, State.wdata, hport]
  exact ⟨hstep, fun i h => hstep.trans (execWord_of_ok h _), fun e h => hstep.trans (execWord_of_error h _), rfl, hwdata⟩

/-! ## The write data -/

/-- Of the port only the write data is ever read, by the commands that use it; each command ends in a response, which takes
the place of whatever the port held (R90, R318). -/
theorem exec_withPort (hi : i.usesWdata = false) (s : State) (p : Port) :
    exec i { s with port := p } = exec i s := by
  cases i with
  | ldw | wre | wrb | wrs | csrw => cases hi
  | csrr imm =>
    show execCsrr imm _ = execCsrr imm s
    unfold execCsrr
    cases csrOf imm with
    | none => rfl
    | some c => cases c <;> rfl
  | fadd | fmul | fsqr | fred | feq | genc | rdc | perm | hashk | hashz | pack | hashb | rdw | rde | rdb | rds | lde | ste
  | clre => rfl

/-- Settles O17: both sides are the command's outcome at the state with any other port. -/
theorem unusedWriteDataIsIgnored : Obligations.UnusedWriteDataIsIgnored :=
  fun _ s _ _ _ _ hi => (exec_withPort hi s _).trans (exec_withPort hi s _).symm

end Sys2Proof.Laws
end

section
/-! PROOF. The laws of the functions on field elements (spec 40_field_arithmetic.md R120): sums and products modulo R, on canonical
operands and on all. -/

namespace Sys2Proof.Machine

/-! ## Values and bounds -/

theorem modulus_lt_two_pow_254 : Config.modulus < 2 ^ 254 := by decide

theorem fadd_of_canonical {a b : Nat} (ha : a < Config.modulus) (hb : b < Config.modulus) :
    fadd a b = if a + b < Config.modulus then a + b else a + b - Config.modulus := by
  unfold fadd
  split
  · next hsmall => exact Nat.mod_eq_of_lt hsmall
  · next hlarge => rw [Nat.mod_eq_sub_mod (Nat.le_of_not_lt hlarge), Nat.mod_eq_of_lt (by omega)]

theorem canonical_sum_lt {a b : Nat} (ha : a < Config.modulus) (hb : b < Config.modulus) : a + b < 2 ^ 255 :=
  calc a + b
    _ < 2 ^ 254 + 2 ^ 254 := Nat.add_lt_add (ha.trans modulus_lt_two_pow_254) (hb.trans modulus_lt_two_pow_254)
    _ = 2 ^ 255 := by decide

theorem canonical_product_lt {a b : Nat} (ha : a < Config.modulus) (hb : b < Config.modulus) : a * b < 2 ^ 508 :=
  calc a * b
    _ < 2 ^ 254 * 2 ^ 254 := Nat.mul_lt_mul'' (ha.trans modulus_lt_two_pow_254) (hb.trans modulus_lt_two_pow_254)
    _ = 2 ^ 508 := by simp only [← pow_add, Nat.reduceAdd]

/-- A word takes R away at most five times, as `2^256 < 6 * R`. -/
theorem toNat_div_modulus_le (v : Word) : v.toNat / Config.modulus ≤ 5 :=
  have hsix : 2 ^ 256 < Config.modulus * 6 := by decide
  Nat.le_of_lt_succ (Nat.div_lt_of_lt_mul (v.isLt.trans hsix))

theorem fred_add_modulus (v : Nat) : fred v = (v % Config.modulus + Config.modulus) % Config.modulus := by
  rw [Nat.add_mod_right, Nat.mod_mod, fred]

/-! ## Identities on canonical operands -/

section
variable {a : Nat}

theorem fadd_zero (ha : a < Config.modulus) : fadd a 0 = a := Nat.mod_eq_of_lt ha

theorem fmul_one (ha : a < Config.modulus) : fmul a 1 = a := by rw [fmul, Nat.mul_one, Nat.mod_eq_of_lt ha]

theorem fmul_zero (a : Nat) : fmul a 0 = 0 := Nat.zero_mod _

theorem fadd_modulus_sub (ha : a < Config.modulus) : fadd a (Config.modulus - a) = 0 := by
  rw [fadd, Nat.add_sub_of_le ha.le, Nat.mod_self]

end

/-! ## The laws of a commutative ring -/

section
variable (a b k : Nat)

theorem fadd_comm : fadd a b = fadd b a := by rw [fadd, fadd, Nat.add_comm]

theorem fmul_comm : fmul a b = fmul b a := by rw [fmul, fmul, Nat.mul_comm]

theorem fadd_assoc : fadd (fadd a b) k = fadd a (fadd b k) := by
  simp only [fadd, Nat.mod_add_mod, Nat.add_mod_mod, Nat.add_assoc]

theorem fmul_assoc : fmul (fmul a b) k = fmul a (fmul b k) := by
  simp only [fmul, Nat.mod_mul_mod, Nat.mul_mod_mod, Nat.mul_assoc]

theorem fmul_fadd : fmul a (fadd b k) = fadd (fmul a b) (fmul a k) := by
  simp only [fmul, fadd, Nat.mul_mod_mod, Nat.mod_add_mod, Nat.add_mod_mod, Nat.mul_add]

end

/-- Settles O26: each law is that of the integers, taken modulo R. -/
theorem fieldFunctionLaws : Obligations.FieldFunctionLaws :=
  ⟨fun _ _ => fadd_of_canonical,
    fun _ _ ha hb => ⟨by omega, canonical_sum_lt ha hb, canonical_product_lt ha hb⟩,
    fun _ _ => rfl, fun _ => rfl, fred_add_modulus, by decide, toNat_div_modulus_le,
    fun a b => ⟨fadd_lt a b, fmul_lt a b, fsqr_lt a, fred_lt a⟩,
    fun a ha => ⟨fadd_zero ha, fmul_one ha, fmul_zero a, fun _ => fadd_modulus_sub ha⟩,
    fun a b => ⟨fadd_comm a b, fmul_comm a b⟩,
    fun a b k => ⟨fadd_assoc a b k, fmul_assoc a b k, fmul_fadd a b k⟩⟩

end Sys2Proof.Machine
end

section
/-! PROOF. The field arithmetic commands (spec 40_field_arithmetic.md R121 to R125), from what their parts do: the row of the decoder,
a source register as a field element, the answer after a destination register was written. -/

namespace Sys2Proof.Laws

open Sys2Proof.Machine

/-! ## The decode clause of a command -/

/-- A row of the command set gives a command's decode clause, once its condition says that the unused fields are zero. -/
theorem decodesAs_of_row {op : Nat} {f : Format} {command : BitVec 32 → Instr} {unusedZero : BitVec 32 → Prop}
    (hrow : ∀ w, commandOf op (rdField w) (raField w) (rbField w) (immField w) = some (f, command w))
    (hzero : ∀ w, opField w = op → (f.unusedZero w = true ↔ unusedZero w)) : DecodesAs op command unusedZero := by
  rintro w rfl
  have hdecode := decode_of_row (hrow w)
  constructor
  · intro h
    have hok := hdecode.trans (if_pos ((hzero w rfl).mpr h))
    exact ⟨hok, execWord_of_ok hok⟩
  · intro h
    have herror := hdecode.trans (if_neg (mt (hzero w rfl).mp h))
    exact ⟨herror, execWord_of_error herror⟩

section
variable (w : BitVec 32)

theorem unusedZero_DAB_iff : Format.DAB.unusedZero w = true ↔ immField w = 0 := by
  simp [Format.unusedZero, Format.usesRd, Format.usesRa, Format.usesRb, Format.usesImm]

theorem unusedZero_DA_iff : Format.DA.unusedZero w = true ↔ rbField w = 0 ∧ immField w = 0 := by
  simp [Format.unusedZero, Format.usesRd, Format.usesRa, Format.usesRb, Format.usesImm]

theorem unusedZero_AB_iff : Format.AB.unusedZero w = true ↔ rdField w = 0 ∧ immField w = 0 := by
  simp [Format.unusedZero, Format.usesRd, Format.usesRa, Format.usesRb, Format.usesImm]

end

/-! ## Sources and destination -/

section
variable {s : State} {r rd : Reg}

theorem withField_of_lt (h : (s.reg r).toNat < Config.modulus) (k : Nat → Outcome) :
    withField s r k = k (s.reg r).toNat :=
  withField_of_canonical ((canonical_iff _).mpr h) k

theorem withField_of_le (h : Config.modulus ≤ (s.reg r).toNat) (k : Nat → Outcome) :
    withField s r k = .next (s.takeFault .oof (0x8000 + r.val)) :=
  withField_of_outOfField (decide_eq_false h.not_gt) k

/-- Two sources checked one after the other: the values go on, or the first offender is the fault. -/
theorem twoSources {ra rb : Reg} {k : Nat → Nat → Outcome} {o : Outcome}
    (ho : o = withField s ra fun a => withField s rb fun b => k a b) :
    ((s.reg ra).toNat < Config.modulus → (s.reg rb).toNat < Config.modulus → o = k (s.reg ra).toNat (s.reg rb).toNat) ∧
    (Config.modulus ≤ (s.reg ra).toNat → o = .next (s.takeFault .oof (0x8000 + ra.val))) ∧
    ((s.reg ra).toNat < Config.modulus → Config.modulus ≤ (s.reg rb).toNat →
      o = .next (s.takeFault .oof (0x8000 + rb.val))) := by
  subst ho
  refine ⟨fun ha hb => ?_, fun ha => withField_of_le ha _, fun ha hb => ?_⟩
  · rw [withField_of_lt ha, withField_of_lt hb]
  · rw [withField_of_lt ha, withField_of_le hb]

/-- A command that ends by writing its destination register: the read-back and the frame. -/
theorem next_of_setReg {v : Word} {o : Outcome} (ho : o = respond (s.setReg rd v) 0) :
    ∃ t, o = .next t ∧ t.reg rd = v ∧ (∀ q, q ≠ rd → t.reg q = s.reg q) ∧
      t = { s with w := t.w, port := .answering ⟨0, 0⟩ } :=
  ⟨(s.setReg rd v).answer 0 0, ho, State.reg_setReg_same s rd v,
    fun q hq => (State.reg_setReg s rd v q).trans (if_neg hq), rfl⟩

/-- The same for a field element, read back as the number it is. -/
theorem next_of_setReg_toWord {n : Nat} {o : Outcome} (hn : n < Config.modulus)
    (ho : o = respond (s.setReg rd (toWord n)) 0) :
    ∃ t, o = .next t ∧ (t.reg rd).toNat = n ∧ (∀ q, q ≠ rd → t.reg q = s.reg q) ∧
      t = { s with w := t.w, port := .answering ⟨0, 0⟩ } := by
  obtain ⟨t, hnext, hback, hframe⟩ := next_of_setReg ho
  exact ⟨t, hnext, hback ▸ toWord_toNat hn, hframe⟩

end

/-! ## The commands -/

section
variable (rd ra rb : Reg) (s : State)

theorem exec_fadd : exec (.fadd rd ra rb) s =
    withField s ra fun a => withField s rb fun b => respond (s.setReg rd (toWord (fadd a b))) 0 := rfl

theorem exec_fmul : exec (.fmul rd ra rb) s =
    withField s ra fun a => withField s rb fun b => respond (s.setReg rd (toWord (fmul a b))) 0 := rfl

theorem exec_fsqr : exec (.fsqr rd ra) s = withField s ra fun a => respond (s.setReg rd (toWord (fsqr a))) 0 := rfl

theorem exec_fred : exec (.fred rd ra) s = respond (s.setReg rd (toWord (fred (s.reg ra).toNat))) 0 := rfl

theorem exec_feq : exec (.feq ra rb) s =
    withField s ra fun a => withField s rb fun b => respond s (if a = b then 1 else 0) := rfl

/-- Checking a source a second time changes nothing: FSQR is FMUL of a register with itself, faults included (R123). -/
theorem exec_fsqr_eq_fmul : exec (.fsqr rd ra) s = exec (.fmul rd ra ra) s := by
  obtain ⟨hproduct, hfault, -⟩ := twoSources (exec_fmul rd ra ra s)
  rcases lt_or_ge (s.reg ra).toNat Config.modulus with ha | ha
  · rw [hproduct ha ha, exec_fsqr, withField_of_lt ha, fsqr, fmul]
  · rw [hfault ha, exec_fsqr, withField_of_le ha]

end

/-- Settles O27: a pair of sources and a destination, with the sum. -/
theorem faddAddsModuloR : Obligations.FaddAddsModuloR := by
  refine ⟨decodesAs_of_row (fun _ => rfl) fun w _ => unusedZero_DAB_iff w, fun rd ra rb s => ?_⟩
  obtain ⟨hsum, hfaults⟩ := twoSources (exec_fadd rd ra rb s)
  exact ⟨fun ha hb => next_of_setReg_toWord (fadd_lt _ _) (hsum ha hb), hfaults⟩

/-- Settles O28: a pair of sources and a destination, with the product. -/
theorem fmulMultipliesModuloR : Obligations.FmulMultipliesModuloR := by
  refine ⟨decodesAs_of_row (fun _ => rfl) fun w _ => unusedZero_DAB_iff w, fun rd ra rb s => ?_⟩
  obtain ⟨hproduct, hfaults⟩ := twoSources (exec_fmul rd ra rb s)
  exact ⟨fun ha hb => next_of_setReg_toWord (fmul_lt _ _) (hproduct ha hb), hfaults⟩

/-- Settles O29: one source, checked once or twice alike. -/
theorem fsqrSquaresModuloR : Obligations.FsqrSquaresModuloR := by
  refine ⟨decodesAs_of_row (fun _ => rfl) fun w _ => unusedZero_DA_iff w, fun rd ra s => ⟨fun ha => ?_, fun ha => ?_, ?_⟩⟩
  · exact next_of_setReg_toWord (fsqr_lt _) ((exec_fsqr rd ra s).trans (withField_of_lt ha _))
  · exact (exec_fsqr rd ra s).trans (withField_of_le ha _)
  · exact exec_fsqr_eq_fmul rd ra s

/-- Settles O30: the source is not checked, so no case is left out. -/
theorem fredReducesAnyWord : Obligations.FredReducesAnyWord :=
  ⟨decodesAs_of_row (fun _ => rfl) fun w _ => unusedZero_DA_iff w,
    fun rd ra s => next_of_setReg_toWord (fred_lt _) (exec_fred rd ra s)⟩

/-- Settles O31: two words are equal exactly when their values are. -/
theorem feqAnswersEquality : Obligations.FeqAnswersEquality := by
  refine ⟨decodesAs_of_row (fun _ => rfl) fun w _ => unusedZero_AB_iff w, fun ra rb s => ?_⟩
  obtain ⟨hanswer, hfaults⟩ := twoSources (exec_feq ra rb s)
  refine ⟨fun ha hb => ?_, hfaults⟩
  calc exec (.feq ra rb) s
    _ = respond s (if (s.reg ra).toNat = (s.reg rb).toNat then 1 else 0) := hanswer ha hb
    _ = respond s (if s.reg ra = s.reg rb then 1 else 0) := congrArg (respond s) (if_congr BitVec.toNat_inj rfl rfl)

end Sys2Proof.Laws
end

section
/-! PROOF. The constant generator (spec 41_constant_generator.md R140, R141, R146): the constants in closed form, the table that GENC
leaves, and RDC, which reads it. -/

namespace Sys2Proof.Laws

open Sys2Proof.Machine

/-! ## The constants in closed form -/

/-- Each round hashes the accumulator once more, so entry `i` is the `(i+1)`-fold hash, reduced (R140, R145). -/
theorem getElem?_constantsAfter {k i : Nat} (d : List Byte) (hi : i < k) :
    (constantsAfter k d)[i]? = some (fred (be2int (Keccak.h256^[i + 1] d))) := by
  induction k generalizing i d with
  | zero => exact absurd hi (Nat.not_lt_zero i)
  | succ k ih =>
    cases i with
    | zero => rfl
    | succ i => exact ih (Keccak.h256 d) (Nat.lt_of_succ_lt_succ hi)

/-- Settles O32: the constants after the first are those that follow the hashed seed. -/
theorem constantsAreIteratedHashes : Obligations.ConstantsAreIteratedHashes := by
  intro seed n hn
  refine ⟨length_genconst seed hn, rfl, fun i h1 hi => ?_⟩
  obtain ⟨j, rfl⟩ := Nat.exists_eq_add_of_le' h1
  exact getElem?_constantsAfter (Keccak.h256 seed) (Nat.lt_sub_of_add_lt hi)

/-! ## The decode clauses -/

/-- In the format without operands one word alone has an opcode and every unused field zero. -/
theorem unusedZero_N_iff {v w : BitVec 32} (hop : opField w = opField v) (hv : operandFields v = ⟨0, 0, 0, 0⟩) :
    Format.N.unusedZero w = true ↔ w = v := by
  rw [unusedZero_iff, eq_iff_fields, hv, and_iff_right hop]
  exact eq_comm

theorem unusedZero_I_iff (w : BitVec 32) :
    Format.I.unusedZero w = true ↔ rdField w = 0 ∧ raField w = 0 ∧ rbField w = 0 := by
  simp [Format.unusedZero, Format.usesRd, Format.usesRa, Format.usesRb, Format.usesImm, and_assoc]

/-! ## GENC -/

section
variable {s : State}

theorem exec_genc_of_roundsIllegal (h : s.nrounds.toNat = 0 ∨ Config.nrMax < s.nrounds.toNat) :
    exec .genc s = .next (s.takeFault .badcfg 1) := if_pos h

theorem exec_genc_of_seedTooLong (h1 : 1 ≤ s.nrounds.toNat) (hn : s.nrounds.toNat ≤ Config.nrMax)
    (hl : Config.smDepth < s.seedlen.toNat) : exec .genc s = .next (s.takeFault .badcfg 2) :=
  (if_neg (by omega)).trans (if_pos hl)

theorem exec_genc_of_legal (h1 : 1 ≤ s.nrounds.toNat) (hn : s.nrounds.toNat ≤ Config.nrMax)
    (hl : s.seedlen.toNat ≤ Config.smDepth) :
    exec .genc s = respond (s.setTable ((genconst (s.seed s.seedlen.toNat) s.nrounds.toNat).map toWord)) 0 :=
  (if_neg (by omega)).trans (if_neg hl.not_gt)

end

/-- CTN is nine bits wide, so it holds the length of every legal table (R36). -/
theorem ctn_setTable {vs : List Word} (hvs : vs.length ≤ Config.nrMax) (s : State) : (s.setTable vs).ctn.toNat = vs.length := by
  have hwidth : Config.nrMax < 2 ^ 9 := by decide
  rw [State.setTable_ctn, BitVec.toNat_ofNat, Nat.mod_eq_of_lt (hvs.trans_lt hwidth)]

/-- A table of reduced values is read back as those values: a word loses nothing of them. -/
theorem readCt_setTable_map_toWord {vs : List Nat} (hvs : ∀ v ∈ vs, v < Config.modulus) (s : State) {j : Nat} (hj : j < vs.length) :
    some ((s.setTable (vs.map toWord)).readCt j).toNat = vs[j]? := by
  rw [State.readCt_setTable, List.getElem?_map, List.getElem?_eq_getElem hj]
  exact congrArg some (toWord_toNat (hvs _ (List.getElem_mem hj)))

/-- Settles O33: with a legal round count and seed length the table is replaced by constants that are all reduced. -/
theorem gencBuildsTheTable : Obligations.GencBuildsTheTable := by
  refine ⟨decodesAs_of_row (fun _ => rfl) fun w hop => unusedZero_N_iff hop rfl, fun s =>
    ⟨exec_genc_of_roundsIllegal, exec_genc_of_seedTooLong, fun h1 hn hl => ?_⟩⟩
  have hlen := length_genconst (s.seed s.seedlen.toNat) h1
  have hctn : (s.setTable ((genconst (s.seed s.seedlen.toNat) s.nrounds.toNat).map toWord)).ctn.toNat = s.nrounds.toNat := by
    rw [ctn_setTable (by rwa [List.length_map, hlen]), List.length_map, hlen]
  exact ⟨_, exec_genc_of_legal h1 hn hl, rfl, rfl, hctn,
    fun i hi => readCt_setTable_map_toWord genconst_lt s (hi.trans_eq hlen.symm), rfl⟩

/-! ## RDC -/

theorem exec_rdc (imm : Nat) (s : State) : exec (.rdc imm) s =
    withTable s fun _ => withArg s imm (decide (imm < s.ctn.toNat)) <| respond s (s.readCt imm) := rfl

/-- Settles O34: the check of CTV stands around that of the index. -/
theorem rdcReadsAConstant : Obligations.RdcReadsAConstant := by
  refine ⟨decodesAs_of_row (fun _ => rfl) fun w _ => unusedZero_I_iff w, fun imm s =>
    ⟨fun hv => ?_, fun hv hi => ?_, fun hv hi => ?_⟩⟩
  · exact (exec_rdc imm s).trans (withTable_of_invalid hv _)
  · rw [exec_rdc, withTable_of_valid hv]
    exact withArg_of_illegal (decide_eq_false hi.not_gt) _
  · rw [exec_rdc, withTable_of_valid hv]
    exact withArg_of_legal (decide_eq_true hi) _

end Sys2Proof.Laws
end

section
/-! PROOF. The permutation of the hash (spec 42_keccak256.md R161, R164 to R166): what each step of a round does to a lane, and the state
before each of the 24 rounds. -/

namespace Sys2Proof.Laws

open Sys2Proof.Machine Sys2Proof.Machine.Keccak

/-! ## Lanes -/

theorem rol_eq_rotateLeft (v : Lane) {n : Nat} (hn : n < 64) : rol v n = v.rotateLeft n := by
  rw [BitVec.rotateLeft_def, Nat.mod_eq_of_lt hn, rol]

theorem getD_map_range {α : Type} (f : Nat → α) (z : α) {n i : Nat} (hi : i < n) : ((List.range n).map f).getD i z = f i := by
  simp [hi]

@[simp] theorem length_ofLanes (f : Nat → Nat → Lane) : (ofLanes f).length = 25 := by
  rw [ofLanes, List.length_map, List.length_range]

section
variable (a : Lanes) (x y : Nat)

theorem lane_eq_getD (hx : x < 5) (hy : y < 5) : lane a x y = a.getD (x + 5 * y) 0 := by
  rw [lane, Nat.mod_eq_of_lt hx, Nat.mod_eq_of_lt hy]

@[simp] theorem lane_mod_left : lane a (x % 5) y = lane a x y := by rw [lane, Nat.mod_mod, lane]

@[simp] theorem lane_mod_right : lane a x (y % 5) = lane a x y := by rw [lane, Nat.mod_mod, lane]

@[simp] theorem lane_mod_add_left (k : Nat) : lane a (x % 5 + k) y = lane a (x + k) y := by rw [lane, Nat.mod_add_mod, lane]

@[simp] theorem lane_ofLanes (f : Nat → Nat → Lane) : lane (ofLanes f) x y = f (x % 5) (y % 5) := by
  have hx : (x % 5 + 5 * (y % 5)) % 5 = x % 5 := by omega
  have hy : (x % 5 + 5 * (y % 5)) / 5 = y % 5 := by omega
  rw [lane, ofLanes, getD_map_range _ _ (by omega), hx, hy]

end

/-! ## The steps of a round -/

/-- `D[x]` of step theta, for `x < 5` (R164). -/
def columnMask (a : Lanes) (x : Nat) : Lane := columnParity a ((x + 4) % 5) ^^^ rol (columnParity a ((x + 1) % 5)) 1

section
variable (a : Lanes) (x y : Nat)

theorem lane_theta (hx : x < 5) : lane (theta a) x y = lane a x y ^^^ columnMask a x := by
  have hparity (k : Nat) : ((List.range 5).map (columnParity a)).getD (k % 5) 0 = columnParity a (k % 5) :=
    getD_map_range _ _ (Nat.mod_lt _ (by decide))
  rw [theta, lane_ofLanes, lane_mod_left, lane_mod_right, Nat.mod_eq_of_lt hx, getD_map_range _ _ hx, hparity, hparity, columnMask]

/-- The lane that rho and pi bring to column `y` and row `2x + 3y` is that of column `x` and row `y`: `y + 3(2x + 3y) = x` modulo 5. -/
theorem lane_rhoPi (hx : x < 5) (hy : y < 5) :
    lane (rhoPi a) y ((2 * x + 3 * y) % 5) = rol (lane a x y) (rotations.getD (x + 5 * y) 0) := by
  have hsource : (y + 3 * ((2 * x + 3 * y) % 5)) % 5 = x := by omega
  rw [rhoPi, lane_ofLanes, Nat.mod_mod, Nat.mod_eq_of_lt hy, hsource]

theorem lane_chi : lane (chi a) x y = lane a x y ^^^ (~~~ lane a (x + 1) y &&& lane a (x + 2) y) := by
  simp only [chi, lane_ofLanes, lane_mod_left, lane_mod_right, lane_mod_add_left]

theorem lane_iota (rc : Lane) (ha : a.length = 25) (hx : x < 5) (hy : y < 5) :
    lane (iota a rc) x y = lane a x y ^^^ if x = 0 ∧ y = 0 then rc else 0 := by
  rw [lane_eq_getD _ x y hx hy, lane_eq_getD _ x y hx hy, iota]
  by_cases hfirst : x = 0 ∧ y = 0
  · obtain ⟨rfl, rfl⟩ := hfirst
    simp [ha, lane]
  · have hother : 0 ≠ x + 5 * y := by omega
    simp [hfirst, List.getElem?_set_ne hother]

end

theorem lane_keccakRound (a : Lanes) (rc : Lane) {x y : Nat} (hx : x < 5) (hy : y < 5) :
    lane (keccakRound a rc) x y =
      lane (chi (rhoPi (theta a))) x y ^^^ if x = 0 ∧ y = 0 then rc else 0 :=
  lane_iota _ x y rc (length_ofLanes _) hx hy

@[simp] theorem length_keccakRound (a : Lanes) (rc : Lane) : (keccakRound a rc).length = 25 :=
  List.length_set.trans (length_ofLanes _)

/-! ## The rounds -/

/-- The lanes before round `ir` (R164); for `ir = 24`, the result. -/
def lanesBefore (a : Lanes) (ir : Nat) : Lanes := (roundConstants.take ir).foldl keccakRound a

theorem length_roundConstants : roundConstants.length = 24 := rfl

theorem lanesBefore_succ (a : Lanes) {ir : Nat} (hir : ir < 24) :
    lanesBefore a (ir + 1) = keccakRound (lanesBefore a ir) (roundConstants.getD ir 0) := by
  rw [lanesBefore, List.take_succ_eq_append_getElem hir, List.foldl_append, List.getD_eq_getElem _ _ hir]
  rfl

theorem keccakF_eq_lanesBefore (a : Lanes) : keccakF a = lanesBefore a 24 := rfl

@[simp] theorem length_keccakF (a : Lanes) : (keccakF a).length = 25 := by
  rw [keccakF_eq_lanesBefore, lanesBefore_succ a (by decide), length_keccakRound]

/-- Settles O36: the steps' intermediate values are the column parities, the masks of theta, and the lanes after theta and after rho
and pi. -/
theorem keccakRunsItsRounds : Obligations.KeccakRunsItsRounds := by
  refine ⟨fun v _ => rol_eq_rotateLeft v, fun a rc => ?round, fun a => ?rounds, lane_eq_getD, by decide, length_roundConstants,
    by decide⟩
  case round =>
    refine ⟨columnParity a, columnMask a, lane (theta a), lane (rhoPi (theta a)), fun _ _ => rfl, fun _ _ => rfl,
      fun x y hx _ => lane_theta a x y hx, lane_rhoPi (theta a), fun x y hx hy => ?_⟩
    rw [lane_keccakRound a rc hx hy, lane_chi, lane_mod_left, lane_mod_left]
  case rounds => exact ⟨lanesBefore a, rfl, fun _ => lanesBefore_succ a, keccakF_eq_lanesBefore a⟩

end Sys2Proof.Laws
end

section
/-! PROOF. The hash around its permutation (spec 42_keccak256.md R160, R162, R163, R167): the padding, what a block does to the lanes, and
the digest's bytes. -/

namespace Sys2Proof.Laws

open Sys2Proof.Machine Sys2Proof.Machine.Keccak

/-! ## Padding -/

/-- The `q` bytes that padding adds (R162). -/
def padding (q : Nat) : List Byte := if q = 1 then [0x81] else 0x01 :: (List.replicate (q - 2) 0x00 ++ [0x80])

theorem padded_eq_append (m : List Byte) : padded m = m ++ padding (136 - m.length % 136) := by
  rw [padded, rate]
  by_cases hq : 136 - m.length % 136 = 1
  · rw [if_pos hq, hq]
    rfl
  · rw [if_neg hq, padding, if_neg hq, List.append_assoc, List.append_assoc]
    rfl

theorem length_padding {q : Nat} (hq : 1 ≤ q) : (padding q).length = q := by
  rw [padding]
  split
  next h => exact h.symm
  next h =>
    simp only [List.length_cons, List.length_append, List.length_replicate, List.length_nil]
    omega

section
variable {q : Nat} (hq : 2 ≤ q)
include hq

theorem padding_of_two_le : padding q = 0x01 :: (List.replicate (q - 2) 0x00 ++ [0x80]) := if_neg (by omega)

theorem padding_first : (padding q)[0]? = some 0x01 := by rw [padding_of_two_le hq, List.getElem?_cons_zero]

theorem padding_between {k : Nat} (hk : 0 < k) (hlast : k < q - 1) : (padding q)[k]? = some 0x00 := by
  obtain ⟨k, rfl⟩ := Nat.exists_eq_add_of_le' hk
  have hzero : k < q - 2 := by omega
  rw [padding_of_two_le hq, List.getElem?_cons_succ, List.getElem?_append_left (by rwa [List.length_replicate]),
    List.getElem?_replicate_of_lt hzero]

theorem padding_last : (padding q)[q - 1]? = some 0x80 := by
  have hindex : q - 1 = q - 2 + 1 := by omega
  rw [padding_of_two_le hq, hindex, List.getElem?_cons_succ, List.getElem?_append_right (by rw [List.length_replicate])]
  simp

end

section
variable (m : List Byte)

theorem length_padded : (padded m).length = m.length + (136 - m.length % 136) := by
  rw [padded_eq_append, List.length_append, length_padding (by omega)]

theorem getElem?_padded_add (k : Nat) : (padded m)[m.length + k]? = (padding (136 - m.length % 136))[k]? := by
  rw [padded_eq_append, List.getElem?_append_right (Nat.le_add_right _ _), Nat.add_sub_cancel_left]

end

/-! ## Absorbing -/

theorem take_drop_eq_map_range {l : List Byte} {k n : Nat} (h : k + n ≤ l.length) :
    (l.drop k).take n = (List.range n).map fun j => l.getD (k + j) 0 := by
  refine List.ext_getElem (by simp; omega) fun j _ hj => ?_
  have hj' : k + j < l.length := by simp at hj; omega
  simp [hj']

/-- Absorbing permutes the lanes that took in the block: lanes 0 to 16 change, the others stay (R163). -/
theorem absorb_eq_keccakF (a : Lanes) (block : List Byte) :
    ∃ x : Lanes, x.length = 25 ∧ absorb a block = keccakF x ∧
      (∀ i, i < 17 → x.getD i 0 = a.getD i 0 ^^^ BitVec.ofNat 64 (le2int ((block.drop (8 * i)).take 8))) ∧
      ∀ i, 17 ≤ i → i < 25 → x.getD i 0 = a.getD i 0 := by
  refine ⟨_, by rw [List.length_map, List.length_range], rfl, fun i hi => ?_, fun i hrate hi => ?_⟩
  · rw [getD_map_range _ _ (by omega), if_pos hi]
  · rw [getD_map_range _ _ hi, if_neg hrate.not_gt]

/-- Block `b` of a byte string (R163). -/
def blockOf (p : List Byte) (b : Nat) : List Byte := (p.drop (rate * b)).take rate

theorem take_drop_blockOf {p : List Byte} {b i : Nat} (hb : b < p.length / 136) (hi : i < 17) :
    ((blockOf p b).drop (8 * i)).take 8 = (List.range 8).map fun j => p.getD (136 * b + 8 * i + j) 0 := by
  have hwithin : min 8 (136 - 8 * i) = 8 := by omega
  rw [blockOf, rate, List.drop_take, List.take_take, List.drop_drop, hwithin, take_drop_eq_map_range (by omega)]

/-- The lanes after the first `n` blocks of the padded message (R163). -/
def lanesAfterBlocks (m : List Byte) (n : Nat) : Lanes :=
  (List.range n).foldl (fun a b => absorb a (blockOf (padded m) b)) zero

theorem absorbAll_eq (m : List Byte) : absorbAll m = lanesAfterBlocks m ((padded m).length / 136) := rfl

theorem lanesAfterBlocks_succ (m : List Byte) (n : Nat) :
    lanesAfterBlocks m (n + 1) = absorb (lanesAfterBlocks m n) (blockOf (padded m) n) := by
  rw [lanesAfterBlocks, List.range_succ, List.foldl_append]
  rfl

theorem length_lanesAfterBlocks (m : List Byte) (n : Nat) : (lanesAfterBlocks m n).length = 25 := by
  cases n with
  | zero => rfl
  | succ n => rw [lanesAfterBlocks_succ, absorb, length_keccakF]

theorem length_absorbAll (m : List Byte) : (absorbAll m).length = 25 := length_lanesAfterBlocks m _

/-! ## Squeezing -/

theorem toNat_getD_int2le (v : Nat) {n j : Nat} (hj : j < n) : ((int2le n v).getD j 0).toNat = v / 256 ^ j % 256 := by
  induction n generalizing v j with
  | zero => exact absurd hj (Nat.not_lt_zero j)
  | succ n ih =>
    cases j with
    | zero => simp [int2le]
    | succ j =>
      rw [int2le, List.getD_cons_succ, ih _ (Nat.lt_of_succ_lt_succ hj), Nat.div_div_eq_div_mul, Nat.pow_succ']

/-- Byte strings of eight bytes each, laid end to end: byte `8i + j` is byte `j` of string `i`. -/
theorem getD_flatMap_int2le {l : Lanes} {i j : Nat} (hi : i < l.length) (hj : j < 8) :
    (l.flatMap fun v => int2le 8 v.toNat).getD (8 * i + j) 0 = (int2le 8 (l.getD i 0).toNat).getD j 0 := by
  induction l generalizing i with
  | nil => exact absurd hi (Nat.not_lt_zero i)
  | cons v l ih =>
    rw [List.flatMap_cons]
    cases i with
    | zero => rw [List.getD_append _ _ _ _ (by rw [length_int2le]; omega), Nat.mul_zero, Nat.zero_add, List.getD_cons_zero]
    | succ i =>
      have hskip : 8 * (i + 1) + j - 8 = 8 * i + j := by omega
      rw [List.getD_append_right _ _ _ _ (by rw [length_int2le]; omega), length_int2le, hskip, ih (Nat.lt_of_succ_lt_succ hi),
        List.getD_cons_succ]

theorem length_squeeze {a : Lanes} (ha : a.length = 25) : (squeeze a).length = 32 := by
  simp [squeeze, List.length_flatMap, ha]

theorem toNat_getD_squeeze {a : Lanes} (ha : a.length = 25) {i j : Nat} (hi : i < 4) (hj : j < 8) :
    ((squeeze a).getD (8 * i + j) 0).toNat = (a.getD i 0).toNat / 256 ^ j % 256 := by
  have htake : (a.take 4).getD i 0 = a.getD i 0 := by
    rw [List.getD_eq_getElem?_getD, List.getElem?_take_of_lt hi, List.getD_eq_getElem?_getD]
  rw [squeeze, getD_flatMap_int2le (by rw [List.length_take]; omega) hj, htake, toNat_getD_int2le _ hj]

/-- Settles O35: the state sequence is that of the lanes after each block. -/
theorem paddingAndDigestLengths : Obligations.PaddingAndDigestLengths := by
  intro m
  have hlength := length_padded m
  refine ⟨hlength, by omega, ⟨_, (padded_eq_append m).symm⟩, fun hq => ?single, fun hq => ⟨?first, fun j hj hlast => ?between, ?last⟩,
    length_squeeze (length_absorbAll m), lanesAfterBlocks m, rfl, fun b hb => ?block,
    fun i j hi hj => toNat_getD_squeeze (length_absorbAll m) hi hj⟩
  case single => rw [← Nat.add_zero m.length, getElem?_padded_add, hq]; rfl
  case first => exact (getElem?_padded_add m 0).trans (padding_first hq)
  case between =>
    obtain ⟨k, rfl⟩ := Nat.exists_eq_add_of_le hj.le
    exact (getElem?_padded_add m k).trans (padding_between hq (by omega) (by omega))
  case last =>
    rw [Nat.add_sub_assoc (by omega), getElem?_padded_add, padding_last hq]
  case block =>
    obtain ⟨x, hx, habsorb, hlow, hhigh⟩ := absorb_eq_keccakF (lanesAfterBlocks m b) (blockOf (padded m) b)
    exact ⟨x, hx, (lanesAfterBlocks_succ m b).trans habsorb, fun i hi => take_drop_blockOf hb hi ▸ hlow i hi, hhigh⟩

end Sys2Proof.Laws
end

section
/-! PROOF. The round permutation and PERM (spec 43_round_permutation.md R180 to R183): a round is a seventh power, the rounds follow one
another along the table, each part of a round is a bijection of the field. -/

namespace Sys2Proof.Laws

open Sys2Proof.Machine

/-! ## One round -/

/-- The reductions between the factors of the schedule of R16 do not change the residue. -/
theorem pow7_eq (t : Nat) : pow7 t = t ^ 7 % Config.modulus := by
  have hpower : t * t * (t * t) * (t * t) * t = t ^ 7 := by ring
  simp only [pow7, fmul, Nat.mod_mul_mod, Nat.mul_mod_mod, hpower]

/-- Settles O38: the power by its schedule, the three fixed values by evaluation. -/
theorem roundIsTheSeventhPower : Obligations.RoundIsTheSeventhPower :=
  ⟨fun t _ => pow7_eq t, by decide, by decide, by decide⟩

/-! ## The rounds in order -/

theorem laterRounds_append (k : Nat) (cs ds : List Nat) (h : Nat) :
    laterRounds k (cs ++ ds) h = laterRounds k ds (laterRounds k cs h) := by
  induction cs generalizing h with
  | nil => rfl
  | cons c cs ih => exact ih _

/-- `h[i]` of R182: the value after round `i` of a permutation under the table `cs`. -/
def valueAfterRound (x k : Nat) (cs : List Nat) (i : Nat) : Nat := laterRounds k (cs.tail.take i) (pow7 (fadd x k))

theorem valueAfterRound_succ (x k : Nat) {cs : List Nat} {i : Nat} (hi : i + 1 < cs.length) :
    valueAfterRound x k cs (i + 1) = pow7 (fadd (fadd (valueAfterRound x k cs i) k) (cs.getD (i + 1) 0)) := by
  have htail : i < cs.tail.length := by rw [List.length_tail]; omega
  rw [valueAfterRound, List.take_succ_eq_append_getElem htail, laterRounds_append, List.getElem_tail, List.getD_eq_getElem _ _ hi]
  rfl

theorem permute_eq_valueAfterRound (x k : Nat) (cs : List Nat) :
    permute x k cs = fadd (valueAfterRound x k cs (cs.length - 1)) k := by
  rw [permute, valueAfterRound, ← List.length_tail, List.take_length]

/-- Settles O39: the rounds' values are those after each of them; of the table only the tail is read. -/
theorem permuteRunsTheRounds : Obligations.PermuteRunsTheRounds :=
  ⟨fun x k cs _ => ⟨valueAfterRound x k cs, rfl, fun _ => valueAfterRound_succ x k, permute_eq_valueAfterRound x k cs⟩,
    fun _ _ _ _ _ => rfl, permute_lt⟩

/-! ## Bijections of the field -/

/-- The field is finite, so a map into it that is injective on it is a bijection of it. -/
theorem bijOn_field_of_injOn {f : Nat → Nat} (hlt : ∀ t, f t < Config.modulus) (hinj : Set.InjOn f (Set.Iio Config.modulus)) :
    Set.BijOn f (Set.Iio Config.modulus) (Set.Iio Config.modulus) :=
  ((Set.finite_Iio _).injOn_iff_bijOn_of_mapsTo fun t _ => hlt t).mp hinj

theorem bijOn_fadd (k : Nat) : Set.BijOn (fun t => fadd t k) (Set.Iio Config.modulus) (Set.Iio Config.modulus) :=
  bijOn_field_of_injOn (fun _ => fadd_lt _ _) fun _ ha _ hb hsum =>
    (Nat.ModEq.add_right_cancel' k hsum).eq_of_lt_of_lt ha hb

/-- As 7 is prime to `R - 1`, some power undoes the seventh one, by Fermat's little theorem (R181). -/
theorem exists_pow_seven_mul_modEq : ∃ e : Nat, ∀ t : Nat, t ^ (7 * e) ≡ t [MOD Config.modulus] := by
  obtain ⟨e, -, he⟩ := Nat.exists_mul_mod_eq_one_of_coprime seven_coprime (by decide)
  have hdvd : Config.modulus - 1 ∣ 7 * e - 7 * e % (Config.modulus - 1) := Nat.dvd_sub_mod _
  rw [he] at hdvd
  have hpos : 1 ≤ 7 * e := Nat.pos_of_ne_zero fun hzero => by simp [hzero] at he
  refine ⟨e, fun t => ?_⟩
  have hfermat := Int.ModEq.pow_eq_pow modulus_prime hdvd hpos one_pos t
  rw [pow_one, ← Nat.cast_pow] at hfermat
  exact Int.natCast_modEq_iff.mp hfermat

theorem bijOn_pow7 : Set.BijOn pow7 (Set.Iio Config.modulus) (Set.Iio Config.modulus) := by
  obtain ⟨e, he⟩ := exists_pow_seven_mul_modEq
  refine bijOn_field_of_injOn pow7_lt fun a ha b hb hpow => ?_
  have hseventh : a ^ 7 ≡ b ^ 7 [MOD Config.modulus] := by rwa [pow7_eq, pow7_eq] at hpow
  have hroot : a ≡ b [MOD Config.modulus] :=
    calc a
      _ ≡ a ^ (7 * e) [MOD Config.modulus] := (he a).symm
      _ ≡ b ^ (7 * e) [MOD Config.modulus] := by rw [pow_mul, pow_mul]; exact hseventh.pow e
      _ ≡ b [MOD Config.modulus] := he b
  exact hroot.eq_of_lt_of_lt ha hb

theorem bijOn_laterRounds (k : Nat) (cs : List Nat) :
    Set.BijOn (laterRounds k cs) (Set.Iio Config.modulus) (Set.Iio Config.modulus) := by
  induction cs with
  | nil => exact Set.bijOn_id _
  | cons c cs ih => exact ih.comp (bijOn_pow7.comp ((bijOn_fadd c).comp (bijOn_fadd k)))

/-- Settles O40: the permutation is a composition of bijections (R183). -/
theorem permuteIsABijection : Obligations.PermuteIsABijection :=
  fun k cs => (bijOn_fadd k).comp ((bijOn_laterRounds k cs.tail).comp (bijOn_pow7.comp (bijOn_fadd k)))

/-! ## The command -/

theorem exec_perm (rd ra rb : Reg) (s : State) : exec (.perm rd ra rb) s =
    withTable s fun c => withField s ra fun x => withField s rb fun k => respond (s.setReg rd (toWord (permute x k c))) 0 := rfl

/-- Settles O41: the check of CTV stands around that of `x`, which stands around that of `k`. -/
theorem permPermutes : Obligations.PermPermutes := by
  refine ⟨decodesAs_of_row (fun _ => rfl) fun w _ => unusedZero_DAB_iff w, fun rd ra rb s =>
    ⟨fun hv => ?_, fun hv hx => ?_, fun hv hx hk => ?_, fun hv hx hk => next_of_setReg_toWord (permute_lt _ _ _) ?_⟩⟩
  · exact (exec_perm rd ra rb s).trans (withTable_of_invalid hv _)
  · rw [exec_perm, withTable_of_valid hv, withField_of_le hx]
  · rw [exec_perm, withTable_of_valid hv, withField_of_lt hx, withField_of_le hk]
  · rw [exec_perm, withTable_of_valid hv, withField_of_lt hx, withField_of_lt hk, State.table]

end Sys2Proof.Laws
end

section
/-! PROOF. The chaining hash and the commands HASHK and HASHZ (spec 44_sponge_hash.md R190 to R195): the running value, the checks the
two commands share, and the hash of the validated elements under a key. -/

namespace Sys2Proof.Laws

open Sys2Proof.Machine

/-! ## The chaining -/

/-- The running value `r` of R192 before element `j`. -/
def chainedBefore (e : List Nat) (key : Nat) (c : List Nat) (j : Nat) : Nat := multihash (e.take j) key c

theorem chainedBefore_succ {e : List Nat} (key : Nat) (c : List Nat) {j : Nat} (hj : j < e.length) :
    chainedBefore e key c (j + 1) =
      fadd (fadd (chainedBefore e key c j) (e.getD j 0)) (permute (e.getD j 0) (chainedBefore e key c j) c) := by
  rw [chainedBefore, multihash, List.take_succ_eq_append_getElem hj, List.foldl_append, List.getD_eq_getElem _ _ hj]
  rfl

theorem multihash_eq_chainedBefore (e : List Nat) (key : Nat) (c : List Nat) :
    multihash e key c = chainedBefore e key c e.length := by
  rw [chainedBefore, List.take_length]

/-- Settles O42: the running values are the hashes of the first `j` elements; of one element the inner reduction leaves the residue. -/
theorem multihashChains : Obligations.MultihashChains :=
  ⟨fun e key c => ⟨chainedBefore e key c, rfl, fun _ => chainedBefore_succ key c, multihash_eq_chainedBefore e key c⟩,
    fun _ _ => rfl, fun _ _ _ => Nat.mod_add_mod _ _ _⟩

/-! ## The decode clauses -/

section
variable (w : BitVec 32)

theorem unusedZero_DAI_iff : Format.DAI.unusedZero w = true ↔ rbField w = 0 := by
  simp [Format.unusedZero, Format.usesRd, Format.usesRa, Format.usesRb, Format.usesImm]

theorem unusedZero_DI_iff : Format.DI.unusedZero w = true ↔ raField w = 0 ∧ rbField w = 0 := by
  simp [Format.unusedZero, Format.usesRd, Format.usesRa, Format.usesRb, Format.usesImm]

end

/-! ## Table, length and elements -/

section
variable {s : State} {n : Nat}

/-- The valid table and then the length checked: each its own fault, or the command goes on (R193, R194). -/
theorem tableThenLength {k o : Outcome} (ho : o = withTable s fun _ => withArg s n (decide (n ≤ Config.emDepth)) k) :
    (s.ctv = false → o = .next (s.takeFault .notready 0)) ∧
    (s.ctv = true → 256 < n → o = .next (s.takeFault .badarg n)) ∧
    (s.ctv = true → n ≤ 256 → o = k) := by
  subst ho
  refine ⟨fun hv => withTable_of_invalid hv _, fun hv hn => ?_, fun hv hn => ?_⟩
  · rw [withTable_of_valid hv]
    exact withArg_of_illegal (decide_eq_false hn.not_ge) _
  · rw [withTable_of_valid hv]
    exact withArg_of_legal (decide_eq_true hn) _

theorem withElements_of_lt (h : ∀ j, j < n → (s.readEm j).toNat < Config.modulus) (k : List Nat → Outcome) :
    withElements s n k = k (s.elements n) :=
  withElements_of_canonical (fun j hj => (canonical_iff _).mpr (h j hj)) k

theorem withElements_of_firstOffender {j : Nat} (hj : j < n) (hout : Config.modulus ≤ (s.readEm j).toNat)
    (hfirst : ∀ i, i < j → (s.readEm i).toNat < Config.modulus) (k : List Nat → Outcome) :
    withElements s n k = .next (s.takeFault .oof j) := by
  have hsome : s.firstOutOfField n = some j :=
    (s.firstOutOfField_some_iff n j).mpr ⟨hj, decide_eq_false hout.not_gt, fun i hi => (canonical_iff _).mpr (hfirst i hi)⟩
  simp only [withElements, hsome, raise]

end

/-! ## The hash under a key -/

/-- What HASHK and HASHZ do once the key is there: the elements are validated, then hashed under it (R193). -/
def hashUnder (s : State) (rd : Reg) (n key : Nat) : Outcome :=
  withElements s n fun e => respond (s.setReg rd (toWord (multihash e key s.table))) 0

section
variable (rd ra : Reg) (n : Nat) (s : State)

theorem exec_hashk : exec (.hashk rd ra n) s =
    withTable s fun _ => withArg s n (decide (n ≤ Config.emDepth)) <| withField s ra (hashUnder s rd n) := rfl

theorem exec_hashz : exec (.hashz rd n) s =
    withTable s fun _ => withArg s n (decide (n ≤ Config.emDepth)) <| hashUnder s rd n 0 := rfl

/-- A key register that holds zero is in the field, so HASHK goes on with the key of HASHZ (R194). -/
theorem exec_hashz_eq_hashk {wk : Reg} (hk : s.reg wk = 0) : exec (.hashz rd n) s = exec (.hashk rd wk n) s := by
  have hzero : (s.reg wk).toNat = 0 := congrArg BitVec.toNat hk
  rw [exec_hashk, withField_of_lt (hzero.trans_lt modulus_pos), hzero, exec_hashz]

end

section
variable {rd : Reg} {n : Nat} {s : State}

theorem hashUnder_of_lt (h : ∀ j, j < n → (s.readEm j).toNat < Config.modulus) (key : Nat) :
    hashUnder s rd n key = respond (s.setReg rd (toWord (multihash (s.elements n) key s.table))) 0 :=
  withElements_of_lt h _

theorem hashUnder_of_firstOffender {j : Nat} (hj : j < n) (hout : Config.modulus ≤ (s.readEm j).toNat)
    (hfirst : ∀ i, i < j → (s.readEm i).toNat < Config.modulus) (key : Nat) :
    hashUnder s rd n key = .next (s.takeFault .oof j) :=
  withElements_of_firstOffender hj hout hfirst _

/-- Under a canonical key, with every element in the field, the destination takes the hash. -/
theorem next_of_hashUnder {key : Nat} {o : Outcome} (hkey : key < Config.modulus) (ho : o = hashUnder s rd n key)
    (h : ∀ j, j < n → (s.readEm j).toNat < Config.modulus) :
    ∃ t, o = .next t ∧ (t.reg rd).toNat = multihash (s.elements n) key s.table ∧
      (∀ q, q ≠ rd → t.reg q = s.reg q) ∧ t = { s with w := t.w, port := .answering ⟨0, 0⟩ } :=
  next_of_setReg_toWord (multihash_lt _ hkey _) (ho.trans (hashUnder_of_lt h key))

end

/-- Settles O43: table and length, then the key register, then the hash under its value. -/
theorem hashkHashesUnderAKey : Obligations.HashkHashesUnderAKey := by
  refine ⟨decodesAs_of_row (fun _ => rfl) fun w _ => unusedZero_DAI_iff w, fun rd ra n s => ?_⟩
  obtain ⟨hnotready, hbadarg, hready⟩ := tableThenLength (exec_hashk rd ra n s)
  refine ⟨hnotready, hbadarg, fun hv hn hkey => ?key, fun j hv hn hkey hj hout hfirst => ?element, fun hv hn hkey => ?success⟩
  case key => exact (hready hv hn).trans (withField_of_le hkey _)
  case element => rw [hready hv hn, withField_of_lt hkey, hashUnder_of_firstOffender hj hout hfirst]
  case success => exact next_of_hashUnder hkey ((hready hv hn).trans (withField_of_lt hkey _))

/-- Settles O44: table and length, then the hash under zero. -/
theorem hashzHashesUnderTheZeroKey : Obligations.HashzHashesUnderTheZeroKey := by
  refine ⟨decodesAs_of_row (fun _ => rfl) fun w _ => unusedZero_DI_iff w, fun rd n s => ?_⟩
  obtain ⟨hnotready, hbadarg, hready⟩ := tableThenLength (exec_hashz rd n s)
  refine ⟨hnotready, hbadarg, fun j hv hn hj hout hfirst => ?element, fun hv hn => ?success, fun wk => exec_hashz_eq_hashk rd n s⟩
  case element => rw [hready hv hn, hashUnder_of_firstOffender hj hout hfirst]
  case success => exact next_of_hashUnder modulus_pos (hready hv hn)

end Sys2Proof.Laws
end

section
/-! PROOF. The byte packer and the commands PACK and HASHB (spec 44_sponge_hash.md R200 to R202): the value of a chunk, the element memory
that PACK leaves, and HASHB as PACK followed by HASHZ. -/

namespace Sys2Proof.Laws

open Sys2Proof.Machine

/-! ## The value of a byte string -/

/-- The byte at position `t` has weight `256^t` (R13). -/
theorem le2int_eq_sum (bs : List Byte) :
    le2int bs = ∑ t ∈ Finset.range bs.length, (bs.getD t 0).toNat * 256 ^ t := by
  induction bs with
  | nil => rfl
  | cons b bs ih =>
    rw [List.length_cons, Finset.sum_range_succ', le2int, ih, Finset.mul_sum, Nat.add_comm]
    simp [pow_succ', mul_left_comm]

theorem le2int_lt (bs : List Byte) : le2int bs < 256 ^ bs.length := by
  induction bs with
  | nil => exact Nat.one_pos
  | cons b bs ih =>
    have hb := b.isLt
    rw [le2int, List.length_cons, Nat.pow_succ]
    omega

/-! ## The chunks -/

/-- Chunk `j` of a byte string, the last one perhaps shorter (R200). -/
def chunkOf (bs : List Byte) (j : Nat) : List Byte := (bs.drop (31 * j)).take 31

theorem packBytes_eq_map_chunkOf (bs : List Byte) :
    packBytes bs = (List.range (chunkCount bs.length)).map fun j => le2int (chunkOf bs j) := rfl

theorem length_packBytes (bs : List Byte) : (packBytes bs).length = chunkCount bs.length := by
  rw [packBytes_eq_map_chunkOf, List.length_map, List.length_range]

theorem getD_packBytes {bs : List Byte} {j : Nat} (hj : j < chunkCount bs.length) :
    (packBytes bs).getD j 0 = le2int (chunkOf bs j) := by
  rw [packBytes_eq_map_chunkOf, getD_map_range _ _ hj]

section
variable (bs : List Byte) (j : Nat)

theorem length_chunkOf : (chunkOf bs j).length = min 31 (bs.length - 31 * j) := by
  rw [chunkOf, List.length_take, List.length_drop]

theorem getD_chunkOf {t : Nat} (ht : t < 31) : (chunkOf bs j).getD t 0 = bs.getD (31 * j + t) 0 := by
  rw [chunkOf, List.getD_eq_getElem?_getD, List.getElem?_take_of_lt ht, List.getElem?_drop, List.getD_eq_getElem?_getD]

theorem le2int_chunkOf : le2int (chunkOf bs j) =
    ∑ t ∈ Finset.range (min 31 (bs.length - 31 * j)), (bs.getD (31 * j + t) 0).toNat * 256 ^ t := by
  rw [le2int_eq_sum, length_chunkOf]
  refine Finset.sum_congr rfl fun t ht => ?_
  rw [getD_chunkOf bs j ((Finset.mem_range.mp ht).trans_le (Nat.min_le_left _ _))]

theorem le2int_chunkOf_lt : le2int (chunkOf bs j) < 2 ^ 248 :=
  calc le2int (chunkOf bs j)
    _ < 256 ^ (chunkOf bs j).length := le2int_lt _
    _ ≤ 256 ^ 31 := Nat.pow_le_pow_right (by decide) (List.length_take_le _ _)
    _ = 2 ^ 248 := by decide

end

/-- A chunk is below `2^248`, which is below R. -/
theorem two_pow_248_lt_modulus : 2 ^ 248 < Config.modulus := by decide

theorem packBytes_lt {bs : List Byte} : ∀ v ∈ packBytes bs, v < Config.modulus := by
  intro v hv
  obtain ⟨j, -, rfl⟩ := List.mem_map.mp hv
  exact (le2int_chunkOf_lt bs j).trans two_pow_248_lt_modulus

/-- Settles O45: word `j` is the value of chunk `j`. -/
theorem packIsLittleEndianBy31 : Obligations.PackIsLittleEndianBy31 := by
  intro bs
  refine ⟨length_packBytes bs, fun j hj => ?_⟩
  rw [getD_packBytes hj]
  have hlt := le2int_chunkOf_lt bs j
  exact ⟨le2int_chunkOf bs j, hlt, hlt.trans two_pow_248_lt_modulus⟩

/-! ## PACK -/

/-- The state with the packed words of `BM[0..len-1]` in the element memory (R201). -/
def packed (s : State) (len : Nat) : State := s.writeEmAll ((packBytes (s.bytes len)).map toWord)

theorem exec_pack (len : Nat) (s : State) : exec (.pack len) s = respond (packed s len) (toWord (chunkCount len)) := rfl

section
variable (s : State) {len j : Nat}

theorem readEm_packed_of_lt (hj : j < chunkCount len) :
    some ((packed s len).readEm j).toNat = (packBytes (s.bytes len))[j]? := by
  have hj' : j < (packBytes (s.bytes len)).length := hj.trans_eq (length_packBytes_bytes s len).symm
  rw [packed, State.readEm_writeEmAll, List.getElem?_map, List.getElem?_eq_getElem hj']
  exact congrArg some (toWord_toNat (packBytes_lt _ (List.getElem_mem hj')))

theorem readEm_packed_of_le (hj : chunkCount len ≤ j) : (packed s len).readEm j = s.readEm j := by
  rw [packed, State.readEm_writeEmAll, List.getElem?_eq_none (by rwa [List.length_map, length_packBytes_bytes]), Option.getD_none]

theorem readEm_packed_lt_modulus (hj : j < chunkCount len) : ((packed s len).readEm j).toNat < Config.modulus :=
  packBytes_lt _ (List.mem_of_getElem? (readEm_packed_of_lt s hj).symm)

/-- The words written are read back as the sequence that was packed. -/
theorem elements_packed (len : Nat) : (packed s len).elements (chunkCount len) = packBytes (s.bytes len) := by
  have hlen := length_packBytes_bytes s len
  refine List.ext_getElem (by rw [State.elements, List.length_map, List.length_range, hlen]) fun j _ hj => ?_
  have hread := readEm_packed_of_lt s (hj.trans_eq hlen)
  rw [List.getElem?_eq_getElem hj] at hread
  simpa [State.elements] using hread

end

/-- The count of PACK is small enough for its 256-bit read data. -/
theorem toNat_toWord_chunkCount {len : Nat} (h : len < 4096) : (toWord (chunkCount len)).toNat = chunkCount len :=
  have hdepth : Config.emDepth < Config.modulus := by decide
  toWord_toNat ((chunkCount_le_emDepth h).trans_lt hdepth)

/-- Settles O46: a location below the count holds its packed word, any other what it held. -/
theorem packWritesTheElements : Obligations.PackWritesTheElements :=
  ⟨decodesAs_of_row (fun _ => rfl) fun w _ => unusedZero_I_iff w, fun len s hlen =>
    ⟨_, _, exec_pack len s, toNat_toWord_chunkCount hlen, rfl, fun _ => readEm_packed_of_lt s, fun _ => readEm_packed_of_le s⟩⟩

/-! ## HASHB -/

theorem exec_hashb (rd : Reg) (len : Nat) (s : State) : exec (.hashb rd len) s =
    withTable s fun c => respond (s.setReg rd (toWord (multihash (packBytes (s.bytes len)) 0 c))) 0 := rfl

/-- HASHZ of the packed count after PACK hashes the packed words: they are canonical, no more than the memory holds, and the table
is as it was (R202). -/
theorem exec_hashz_after_pack (rd : Reg) {len : Nat} (v : Word) {s : State} (hv : s.ctv = true) (hlen : len < 4096) :
    exec (.hashz rd (chunkCount len)) ((packed s len).answer 0 v) =
      respond (((packed s len).answer 0 v).setReg rd (toWord (multihash (packBytes (s.bytes len)) 0 s.table))) 0 := by
  obtain ⟨-, -, hready⟩ := tableThenLength (exec_hashz rd (chunkCount len) ((packed s len).answer 0 v))
  have hlt : ∀ j, j < chunkCount len → (((packed s len).answer 0 v).readEm j).toNat < Config.modulus :=
    fun _ => readEm_packed_lt_modulus s
  have helements : ((packed s len).answer 0 v).elements (chunkCount len) = packBytes (s.bytes len) := elements_packed s len
  rw [hready hv (chunkCount_le_emDepth hlen), hashUnder_of_lt hlt, helements]
  rfl

/-- Settles O47: HASHB and the pair of PACK and HASHZ write the same hash, of the packed bytes under zero. -/
theorem hashbHashesTheBytes : Obligations.HashbHashesTheBytes := by
  refine ⟨decodesAs_of_row (fun _ => rfl) fun w _ => unusedZero_DI_iff w, fun rd len s =>
    ⟨fun hv => (exec_hashb rd len s).trans (withTable_of_invalid hv _), fun hv hlen => ?_⟩⟩
  have hhashb := (exec_hashb rd len s).trans (withTable_of_valid hv _)
  have hlt := multihash_lt (packBytes (s.bytes len)) modulus_pos s.table
  obtain ⟨t, hnext, hback, hframe, ht⟩ := next_of_setReg_toWord hlt hhashb
  obtain ⟨u, hpair, hbackPair, -, hu⟩ := next_of_setReg_toWord hlt (exec_hashz_after_pack rd (toWord (chunkCount len)) hv hlen)
  exact ⟨t, hnext, hback, hframe, ht, _, u, exec_pack len s, hpair, congrArg State.port hu,
    BitVec.eq_of_toNat_eq (hbackPair.trans hback.symm)⟩

end Sys2Proof.Laws
end

section
/-! PROOF. The data movement commands (spec 45_data_movement.md R220 to R229), from what their parts do: an index checked against the
depth of its memory, the write data of the command in flight, the answer after one location or register was written. -/

namespace Sys2Proof.Laws

open Sys2Proof.Machine

/-! ## The decode clauses -/

section
variable (w : BitVec 32)

theorem unusedZero_D_iff : Format.D.unusedZero w = true ↔ raField w = 0 ∧ rbField w = 0 ∧ immField w = 0 := by
  simp [Format.unusedZero, Format.usesRd, Format.usesRa, Format.usesRb, Format.usesImm, and_assoc]

theorem unusedZero_A_iff : Format.A.unusedZero w = true ↔ rdField w = 0 ∧ rbField w = 0 ∧ immField w = 0 := by
  simp [Format.unusedZero, Format.usesRd, Format.usesRa, Format.usesRb, Format.usesImm, and_assoc]

theorem unusedZero_AI_iff : Format.AI.unusedZero w = true ↔ rdField w = 0 ∧ rbField w = 0 := by
  simp [Format.unusedZero, Format.usesRd, Format.usesRa, Format.usesRb, Format.usesImm]

end

/-! ## The index, the write data, the location written -/

section
variable {s : State} {imm depth : Nat} {o : Outcome}

/-- An index checked against a depth: BADARG from the depth on, below it the command goes on (R65, R272). -/
theorem indexBelow {k : Outcome} (ho : o = withArg s imm (decide (imm < depth)) k) :
    (depth ≤ imm → o = .next (s.takeFault .badarg imm)) ∧ (imm < depth → o = k) :=
  ⟨fun h => ho.trans (withArg_of_illegal (decide_eq_false h.not_gt) k),
    fun h => ho.trans (withArg_of_legal (decide_eq_true h) k)⟩

theorem wdata_of_inFlight {w : BitVec 32} {d : Word} (h : s.port = .inFlight ⟨w, d⟩) : s.wdata = d := by
  rw [State.wdata, h]

/-- A command that ends by writing an element: the read-back and the frame. -/
theorem next_of_writeEm {v : Word} (ho : o = respond (s.writeEm imm v) 0) :
    ∃ t, o = .next t ∧ t.readEm imm = v ∧ (∀ a, a ≠ imm → t.readEm a = s.readEm a) ∧
      t = { s with em := t.em, port := .answering ⟨0, 0⟩ } :=
  ⟨(s.writeEm imm v).answer 0 0, ho, (State.readEm_writeEm s imm v imm).trans (if_pos rfl),
    fun a ha => (State.readEm_writeEm s imm v a).trans (if_neg ha), rfl⟩

/-- The same for a byte of BM, which takes the low byte of a word. -/
theorem next_of_writeBm_low {v : Word} (ho : o = respond (s.writeBm imm (v.setWidth 8)) 0) :
    ∃ t, o = .next t ∧ (t.readBm imm).toNat = v.toNat % 256 ∧ (∀ a, a ≠ imm → t.readBm a = s.readBm a) ∧
      t = { s with bm := t.bm, port := .answering ⟨0, 0⟩ } := by
  have hback := (State.readBm_writeBm s imm (v.setWidth 8) imm).trans (if_pos rfl)
  exact ⟨(s.writeBm imm (v.setWidth 8)).answer 0 0, ho, (congrArg BitVec.toNat hback).trans (BitVec.toNat_setWidth 8 v),
    fun a ha => (State.readBm_writeBm s imm _ a).trans (if_neg ha), rfl⟩

/-- The same for a byte of SM. -/
theorem next_of_writeSm_low {v : Word} (ho : o = respond (s.writeSm imm (v.setWidth 8)) 0) :
    ∃ t, o = .next t ∧ (t.readSm imm).toNat = v.toNat % 256 ∧ (∀ a, a ≠ imm → t.readSm a = s.readSm a) ∧
      t = { s with sm := t.sm, port := .answering ⟨0, 0⟩ } := by
  have hback := (State.readSm_writeSm s imm (v.setWidth 8) imm).trans (if_pos rfl)
  exact ⟨(s.writeSm imm (v.setWidth 8)).answer 0 0, ho, (congrArg BitVec.toNat hback).trans (BitVec.toNat_setWidth 8 v),
    fun a ha => (State.readSm_writeSm s imm _ a).trans (if_neg ha), rfl⟩

/-- A command that answers with a byte, zero-extended: the read data has the byte's value. -/
theorem next_of_respond_byte {b : Byte} (ho : o = respond s (b.setWidth 256)) :
    ∃ v : Word, v.toNat = b.toNat ∧ o = .next { s with port := .answering ⟨0, v⟩ } :=
  ⟨b.setWidth 256, BitVec.toNat_setWidth_of_le (by decide), ho⟩

end

/-! ## The commands -/

section
variable (rd ra : Reg) (imm : Nat) (s : State)

theorem exec_ldw : exec (.ldw rd) s = respond (s.setReg rd s.wdata) 0 := rfl

theorem exec_rdw : exec (.rdw ra) s = respond s (s.reg ra) := rfl

theorem exec_wre : exec (.wre imm) s =
    withArg s imm (decide (imm < Config.emDepth)) (respond (s.writeEm imm s.wdata) 0) := rfl

theorem exec_rde : exec (.rde imm) s = withArg s imm (decide (imm < Config.emDepth)) (respond s (s.readEm imm)) := rfl

theorem exec_wrb : exec (.wrb imm) s =
    withArg s imm (decide (imm < Config.bmDepth)) (respond (s.writeBm imm (s.wdata.setWidth 8)) 0) := rfl

theorem exec_rdb : exec (.rdb imm) s =
    withArg s imm (decide (imm < Config.bmDepth)) (respond s ((s.readBm imm).setWidth 256)) := rfl

theorem exec_wrs : exec (.wrs imm) s =
    withArg s imm (decide (imm < Config.smDepth)) (respond (s.writeSm imm (s.wdata.setWidth 8)) 0) := rfl

theorem exec_rds : exec (.rds imm) s =
    withArg s imm (decide (imm < Config.smDepth)) (respond s ((s.readSm imm).setWidth 256)) := rfl

theorem exec_lde : exec (.lde rd imm) s =
    withArg s imm (decide (imm < Config.emDepth)) (respond (s.setReg rd (s.readEm imm)) 0) := rfl

theorem exec_ste : exec (.ste ra imm) s =
    withArg s imm (decide (imm < Config.emDepth)) (respond (s.writeEm imm (s.reg ra)) 0) := rfl

end

/-- Settles O48: the word written is the write data of the command in flight. -/
theorem ldwLoadsTheWriteData : Obligations.LdwLoadsTheWriteData := by
  refine ⟨decodesAs_of_row (fun _ => rfl) fun w _ => unusedZero_D_iff w, fun rd w d s hport => ?_⟩
  obtain rfl := wdata_of_inFlight hport
  exact next_of_setReg (exec_ldw rd s)

/-- Settles O49: the command is its response. -/
theorem rdwReadsARegister : Obligations.RdwReadsARegister :=
  ⟨decodesAs_of_row (fun _ => rfl) fun w _ => unusedZero_A_iff w, exec_rdw⟩

/-- Settles O50: the index, then the element written. -/
theorem wreWritesAnElement : Obligations.WreWritesAnElement := by
  refine ⟨decodesAs_of_row (fun _ => rfl) fun w _ => unusedZero_I_iff w, fun imm w d s hport => ?_⟩
  obtain rfl := wdata_of_inFlight hport
  obtain ⟨hbadarg, hwrite⟩ := indexBelow (exec_wre imm s)
  exact ⟨hbadarg, fun himm => next_of_writeEm (hwrite himm)⟩

/-- Settles O51: the index, then the element as read data. -/
theorem rdeReadsAnElement : Obligations.RdeReadsAnElement :=
  ⟨decodesAs_of_row (fun _ => rfl) fun w _ => unusedZero_I_iff w, fun imm s => indexBelow (exec_rde imm s)⟩

/-- Settles O52: an index of twelve bits is below the depth, so the byte is written. -/
theorem wrbWritesAByte : Obligations.WrbWritesAByte := by
  refine ⟨decodesAs_of_row (fun _ => rfl) fun w _ => unusedZero_I_iff w, fun imm w d s hport himm => ?_⟩
  obtain rfl := wdata_of_inFlight hport
  obtain ⟨-, hwrite⟩ := indexBelow (exec_wrb imm s)
  exact next_of_writeBm_low (hwrite himm)

/-- Settles O53: an index of twelve bits is below the depth, so the byte is the read data. -/
theorem rdbReadsAByte : Obligations.RdbReadsAByte := by
  refine ⟨decodesAs_of_row (fun _ => rfl) fun w _ => unusedZero_I_iff w, fun imm s himm => ?_⟩
  obtain ⟨-, hread⟩ := indexBelow (exec_rdb imm s)
  exact next_of_respond_byte (hread himm)

/-- Settles O54: the index, then the byte written. -/
theorem wrsWritesASeedByte : Obligations.WrsWritesASeedByte := by
  refine ⟨decodesAs_of_row (fun _ => rfl) fun w _ => unusedZero_I_iff w, fun imm w d s hport => ?_⟩
  obtain rfl := wdata_of_inFlight hport
  obtain ⟨hbadarg, hwrite⟩ := indexBelow (exec_wrs imm s)
  exact ⟨hbadarg, fun himm => next_of_writeSm_low (hwrite himm)⟩

/-- Settles O55: the index, then the byte as read data. -/
theorem rdsReadsASeedByte : Obligations.RdsReadsASeedByte := by
  refine ⟨decodesAs_of_row (fun _ => rfl) fun w _ => unusedZero_I_iff w, fun imm s => ?_⟩
  obtain ⟨hbadarg, hread⟩ := indexBelow (exec_rds imm s)
  exact ⟨hbadarg, fun himm => next_of_respond_byte (hread himm)⟩

/-- Settles O56: the index, then the register written with the element. -/
theorem ldeLoadsAnElement : Obligations.LdeLoadsAnElement := by
  refine ⟨decodesAs_of_row (fun _ => rfl) fun w _ => unusedZero_DI_iff w, fun rd imm s => ?_⟩
  obtain ⟨hbadarg, hload⟩ := indexBelow (exec_lde rd imm s)
  exact ⟨hbadarg, fun himm => next_of_setReg (hload himm)⟩

/-- Settles O57: the index, then the element written with the register. -/
theorem steStoresARegister : Obligations.SteStoresARegister := by
  refine ⟨decodesAs_of_row (fun _ => rfl) fun w _ => unusedZero_AI_iff w, fun ra imm s => ?_⟩
  obtain ⟨hbadarg, hstore⟩ := indexBelow (exec_ste ra imm s)
  exact ⟨hbadarg, fun himm => next_of_writeEm (hstore himm)⟩

end Sys2Proof.Laws
end

section
/-! PROOF. The control commands CSRR, CSRW and CLRE (spec 46_control.md R250 to R252): the numbers of the control registers, what a
read and a write of each does, and that no command but CSRR acts on the fault record. -/

namespace Sys2Proof.Laws

open Sys2Proof.Machine

/-! ## The numbers of the control registers -/

/-- The number of a control register (R30). -/
def csrNumber : Csr → Nat
  | .id => 0x000
  | .status => 0x001
  | .ctrl => 0x002
  | .nrounds => 0x003
  | .seedlen => 0x004
  | .ctn => 0x005
  | .ecause => 0x006
  | .einfo => 0x007
  | .esticky => 0x008
  | .modulus => 0x009

/-- The ten control registers in the order of their numbers (R30). -/
def controlRegisters : List Csr :=
  [.id, .status, .ctrl, .nrounds, .seedlen, .ctn, .ecause, .einfo, .esticky, .modulus]

theorem csrOf_csrNumber (c : Csr) : csrOf (csrNumber c) = some c := by cases c <;> rfl

theorem eq_csrNumber_of_csrOf {imm : Nat} {c : Csr} (h : csrOf imm = some c) : imm = csrNumber c := by
  unfold csrOf at h
  split at h <;> cases h <;> rfl

theorem csrOf_of_ten_le {imm : Nat} (h : 0x00A ≤ imm) : csrOf imm = none := by
  obtain ⟨k, rfl⟩ := Nat.exists_eq_add_of_le' h
  rfl

/-! ## CSRR -/

section
variable {s : State} {imm : Nat}

theorem exec_csrr_of_some {c : Csr} (h : csrOf imm = some c) :
    exec (.csrr imm) s = respond s (toWord (s.readCsr c)) := by
  show execCsrr imm s = _
  rw [execCsrr, h]

theorem exec_csrr_of_none (h : csrOf imm = none) : exec (.csrr imm) s = raise s .badcsr imm := by
  show execCsrr imm s = _
  rw [execCsrr, h]

end

theorem status_eq (s : State) : s.status = s.ctv.toNat + 2 * (if s.esticky ≠ 0 then 1 else 0) := by
  rw [State.status, State.err]
  split
  · next hset => rw [decide_eq_true hset, Bool.toNat_true]
  · next hclear => rw [decide_eq_false hclear, Bool.toNat_false]

/-- Every control register fits a word, so that its value is read zero-extended. -/
theorem readCsr_lt (s : State) (c : Csr) : s.readCsr c < 2 ^ 256 := by
  have widen {k : Nat} (v : BitVec k) (hk : k ≤ 256) : v.toNat < 2 ^ 256 :=
    v.isLt.trans_le (Nat.pow_le_pow_right Nat.two_pos hk)
  cases c with
  | id => show Config.idValue < _; decide
  | status =>
    have hctv := Bool.toNat_le s.ctv
    have herr := Bool.toNat_le s.err
    show s.ctv.toNat + 2 * s.err.toNat < _
    omega
  | ctrl => exact (Bool.toNat_lt s.eie).trans (by decide)
  | nrounds | seedlen | ctn | ecause | einfo | esticky => exact widen _ (by decide)
  | modulus => exact modulus_lt

theorem toNat_toWord_of_lt {n : Nat} (hn : n < 2 ^ 256) : (toWord n).toNat = n := by
  rw [toWord, BitVec.toNat_ofNat, Nat.mod_eq_of_lt hn]

/-- Settles O58: the ten pairs are the number and the value of each control register. -/
theorem csrrReadsTheTenRegisters : Obligations.CsrrReadsTheTenRegisters := by
  refine ⟨decodesAs_of_row (fun _ => rfl) fun w _ => unusedZero_I_iff w, fun s => ⟨fun p hp => ?_, fun imm himm =>
    exec_csrr_of_none (csrOf_of_ten_le himm)⟩⟩
  rw [← status_eq s] at hp
  obtain ⟨c, -, rfl⟩ : ∃ c ∈ controlRegisters, (csrNumber c, s.readCsr c) = p := List.mem_map.mp hp
  exact ⟨toWord (s.readCsr c), toNat_toWord_of_lt (readCsr_lt s c), exec_csrr_of_some (csrOf_csrNumber c)⟩

/-! ## CSRW -/

section
variable {s : State} {imm : Nat}

theorem exec_csrw_of_some {t : State} (h : (csrOf imm).bind (s.writeCsr s.wdata) = some t) :
    exec (.csrw imm) s = respond t 0 := by
  show execCsrw imm s = _
  rw [execCsrw, h]

theorem exec_csrw_of_none (h : (csrOf imm).bind (s.writeCsr s.wdata) = none) : exec (.csrw imm) s = raise s .badcsr imm := by
  show execCsrw imm s = _
  rw [execCsrw, h]

/-- A number other than that of CTRL, NROUNDS and SEEDLEN names a read-only register or none (R251). -/
theorem writeCsr_of_not_writable (v : Word) (h2 : imm ≠ 2) (h3 : imm ≠ 3) (h4 : imm ≠ 4) :
    (csrOf imm).bind (s.writeCsr v) = none := by
  cases hc : csrOf imm with
  | none => rfl
  | some c =>
    have himm := eq_csrNumber_of_csrOf hc
    cases c with
    | ctrl => exact absurd himm h2
    | nrounds => exact absurd himm h3
    | seedlen => exact absurd himm h4
    | id | status | ctn | ecause | einfo | esticky | modulus => rfl

end

section
variable (s : State)

theorem exec_csrw_ctrl : exec (.csrw 2) s = respond { s with eie := s.wdata.getLsbD 0 } 0 := exec_csrw_of_some rfl

theorem exec_csrw_nrounds : exec (.csrw 3) s = respond { s with nrounds := s.wdata.setWidth 16 } 0 := exec_csrw_of_some rfl

theorem exec_csrw_seedlen : exec (.csrw 4) s = respond { s with seedlen := s.wdata.setWidth 8 } 0 := exec_csrw_of_some rfl

end

theorem toNat_getLsbD_zero (d : Word) : (d.getLsbD 0).toNat = d.toNat % 2 := by
  rw [BitVec.getLsbD, Nat.toNat_testBit, Nat.pow_zero, Nat.div_one]

/-- Settles O59: each of the three registers keeps the low bits of its width. -/
theorem csrwWritesTheThreeRegisters : Obligations.CsrwWritesTheThreeRegisters := by
  refine ⟨decodesAs_of_row (fun _ => rfl) fun w _ => unusedZero_I_iff w, fun w d s hport => ?_⟩
  obtain rfl := wdata_of_inFlight hport
  exact ⟨⟨s.wdata.getLsbD 0, toNat_getLsbD_zero _, exec_csrw_ctrl s⟩,
    ⟨s.wdata.setWidth 16, BitVec.toNat_setWidth 16 _, exec_csrw_nrounds s⟩,
    ⟨s.wdata.setWidth 8, BitVec.toNat_setWidth 8 _, exec_csrw_seedlen s⟩,
    fun imm h2 h3 h4 => exec_csrw_of_none (writeCsr_of_not_writable _ h2 h3 h4)⟩

/-! ## The bits of ESTICKY -/

theorem Effect.esticky_eq {i : Instr} {s u : State} (h : Effect i s u) (hi : i ≠ .clre) : u.esticky = s.esticky := by
  cases h with
  | clearRecord hc => exact absurd hc hi
  | _ => rfl

/-- A fault adds a bit to ESTICKY, and of the effects only that of CLRE writes it. -/
theorem exec_keeps_esticky {i : Instr} {s t : State} {b : Nat} (hi : i ≠ .clre) (h : exec i s = .next t)
    (hb : s.esticky.getLsbD b = true) : t.esticky.getLsbD b = true := by
  rcases exec_effect h with ⟨c, n, -, rfl⟩ | ⟨u, v, hu, rfl⟩
  · rw [getLsbD_esticky_takeFault s c n (BitVec.lt_of_getLsbD hb), hb, Bool.true_or]
  · rwa [State.answer_esticky, hu.esticky_eq hi]

/-! ## Another fault record -/

/-- The state with another fault record. -/
def withRecord (c : BitVec 4) (n e : BitVec 16) (s : State) : State := { s with ecause := c, einfo := n, esticky := e }

/-- Both outcomes are next states, and the two differ in the fault record alone. -/
def AgreeButRecord (o o' : Outcome) : Prop :=
  ∃ t t' : State, o = .next t ∧ o' = .next t' ∧ t' = { t with ecause := t'.ecause, einfo := t'.einfo, esticky := t'.esticky }

section
variable {s : State} {c : BitVec 4} {n e : BitVec 16}

theorem bytes_withRecord (len : Nat) : (withRecord c n e s).bytes len = s.bytes len := rfl

theorem table_withRecord : (withRecord c n e s).table = s.table := rfl

theorem agree_respond (u : State) (v : Word) : AgreeButRecord (respond u v) (respond (withRecord c n e u) v) :=
  ⟨_, _, rfl, rfl, rfl⟩

theorem agree_raise (cause : Cause) (info : Nat) :
    AgreeButRecord (raise s cause info) (raise (withRecord c n e s) cause info) :=
  ⟨_, _, rfl, rfl, rfl⟩

theorem agree_ite {p : Prop} [Decidable p] {a a' b b' : Outcome} (ha : AgreeButRecord a a') (hb : AgreeButRecord b b') :
    AgreeButRecord (if p then a else b) (if p then a' else b') := by
  split
  · exact ha
  · exact hb

theorem agree_withField {r : Reg} {k k' : Nat → Outcome} (hk : ∀ v, AgreeButRecord (k v) (k' v)) :
    AgreeButRecord (withField s r k) (withField (withRecord c n e s) r k') :=
  agree_ite (hk _) (agree_raise _ _)

theorem agree_withTable {k k' : List Nat → Outcome} (hk : ∀ l, AgreeButRecord (k l) (k' l)) :
    AgreeButRecord (withTable s k) (withTable (withRecord c n e s) k') :=
  agree_ite (hk _) (agree_raise _ _)

theorem agree_withArg {imm : Nat} {legal : Bool} {k k' : Outcome} (hk : AgreeButRecord k k') :
    AgreeButRecord (withArg s imm legal k) (withArg (withRecord c n e s) imm legal k') :=
  agree_ite hk (agree_raise _ _)

theorem agree_withElements {m : Nat} {k k' : List Nat → Outcome} (hk : ∀ l, AgreeButRecord (k l) (k' l)) :
    AgreeButRecord (withElements s m k) (withElements (withRecord c n e s) m k') := by
  have hfirst : (withRecord c n e s).firstOutOfField m = s.firstOutOfField m := rfl
  unfold withElements
  rw [hfirst]
  split
  · exact agree_raise _ _
  · exact hk _

theorem agree_csrw (imm : Nat) : AgreeButRecord (execCsrw imm s) (execCsrw imm (withRecord c n e s)) := by
  unfold execCsrw
  cases csrOf imm with
  | none => exact agree_raise _ _
  | some r =>
    cases r with
    | ctrl | nrounds | seedlen => exact agree_respond _ _
    | id | status | ctn | ecause | einfo | esticky | modulus => exact agree_raise _ _

theorem agree_hashUnder (rd : Reg) (m key : Nat) :
    AgreeButRecord (hashUnder s rd m key) (hashUnder (withRecord c n e s) rd m key) := by
  rw [hashUnder, hashUnder, table_withRecord]
  exact agree_withElements fun _ => agree_respond _ _

/-- No command but CSRR does anything that depends on the fault record (R252). -/
theorem exec_withRecord {i : Instr} (hi : ∀ imm, i ≠ .csrr imm) : AgreeButRecord (exec i s) (exec i (withRecord c n e s)) := by
  cases i with
  | fadd | fmul | feq => exact agree_withField fun _ => agree_withField fun _ => agree_respond _ _
  | fsqr => exact agree_withField fun _ => agree_respond _ _
  | genc => exact agree_ite (agree_raise _ _) (agree_ite (agree_raise _ _) (agree_respond _ _))
  | rdc => exact agree_withTable fun _ => agree_withArg (agree_respond _ _)
  | perm =>
    rw [exec_perm, exec_perm]
    exact agree_withTable fun _ => agree_withField fun _ => agree_withField fun _ => agree_respond _ _
  | hashk =>
    rw [exec_hashk, exec_hashk]
    exact agree_withTable fun _ => agree_withArg (agree_withField (agree_hashUnder _ _))
  | hashz =>
    rw [exec_hashz, exec_hashz]
    exact agree_withTable fun _ => agree_withArg (agree_hashUnder _ _ _)
  | hashb =>
    rw [exec_hashb, exec_hashb, bytes_withRecord]
    exact agree_withTable fun _ => agree_respond _ _
  | pack =>
    rw [exec_pack, exec_pack, packed, packed, bytes_withRecord]
    exact agree_respond _ _
  | wre | rde | wrb | rdb | wrs | rds | lde | ste => exact agree_withArg (agree_respond _ _)
  | csrr imm => exact absurd rfl (hi imm)
  | csrw imm => exact agree_csrw imm
  | fred | ldw | rdw => exact agree_respond _ _
  | clre => exact ⟨_, _, rfl, rfl, rfl⟩

end

/-! ## CLRE -/

theorem exec_clre (s : State) : exec .clre s = respond s.clearFaults 0 := rfl

theorem err_clearFaults (s : State) : s.clearFaults.err = false := rfl

theorem irq_clearFaults (s : State) : s.clearFaults.irq = false := by rw [State.irq, err_clearFaults, Bool.and_false]

/-- Settles O60: a cleared record is no error, and the other commands neither lower a bit of the record nor act on it. -/
theorem clreClearsTheRecord : Obligations.ClreClearsTheRecord :=
  ⟨decodesAs_of_row (fun _ => rfl) fun _ hop => unusedZero_N_iff hop rfl,
    fun s => ⟨_, exec_clre s, rfl, err_clearFaults s, irq_clearFaults s⟩,
    fun _ _ _ _ => exec_keeps_esticky,
    fun _ _ _ _ _ => exec_withRecord⟩

end Sys2Proof.Laws
end

section
/-! PROOF. Taking a fault, completing without one, and reissuing a faulted command (spec 60_exceptions.md R271 to R278, 46_control.md
R252). The checks of a command are listed in their order, and none of them reads the fault record or the port. -/

namespace Sys2Proof.Laws

open Sys2Proof.Machine

variable {i : Instr} {s t u : State}

/-! ## The entry of a fault and the answer of a command -/

/-- Settles O8: each field of the record and the response on its own; the frame is the update itself. -/
theorem faultEntryWritesTheRecordOnly : Obligations.FaultEntryWritesTheRecordOnly := by
  refine ⟨fun s c n hn => ⟨toNat_code c, ?_, fun b => getLsbD_esticky_takeFault s c n, ⟨_, rfl, toNat_code c, rfl⟩, rfl⟩, rfl⟩
  rw [State.takeFault_einfo, BitVec.toNat_ofNat, Nat.mod_eq_of_lt hn]

/-- Settles O7: a cause code is never the status of a completion, so the two ways a command can end stay apart. -/
theorem everyCommandAnswers : Obligations.EveryCommandAnswers := by
  intro i s hw
  obtain ⟨t, hnext, ⟨c, n, rfl, hc, -⟩ | ⟨u, v, rfl, -, hv⟩⟩ := exec_outcome i s
  · exact ⟨_, _, hnext, rfl, fun _ => ⟨rfl, c, hc hw, toNat_code c, n, rfl⟩, fun h0 => absurd h0 (code_ne_zero c)⟩
  · exact ⟨_, _, hnext, rfl, fun h => absurd rfl h, fun _ => hv⟩

theorem status_eq_of_answered_takeFault {c : Cause} {n : Nat} {st : BitVec 4} {v : Word}
    (h : (s.takeFault c n).answered st v) : st = BitVec.ofNat 4 c.code := by
  cases h; rfl

theorem status_eq_zero_of_answered_answer {st : BitVec 4} {v w : Word} (h : (u.answer 0 w).answered st v) : st = 0 := by
  cases h; rfl

theorem Effect.record_eq (h : Effect i s u) (hi : i ≠ .clre) :
    u.ecause = s.ecause ∧ u.einfo = s.einfo ∧ u.esticky = s.esticky := by
  cases h with
  | clearRecord hc => exact absurd hc hi
  | _ => exact ⟨rfl, rfl, rfl⟩

/-- Settles O9: a fault answers with its code, and of the effects only that of CLRE writes the record. -/
theorem successLeavesTheFaultRecord : Obligations.SuccessLeavesTheFaultRecord := by
  intro i s t v h ha hi
  rcases exec_effect h with ⟨c, n, -, rfl⟩ | ⟨u, w, hu, rfl⟩
  · exact absurd (status_eq_of_answered_takeFault ha).symm (code_ne_zero c)
  · exact hu.record_eq hi

/-! ## The checks of a command -/

/-- A check: passed, or the fault it raises with the information of the fault. -/
def check (legal : Bool) (c : Cause) (n : Nat) : Option (Cause × Nat) := if legal then none else some (c, n)

/-- CTV is 1 (R271). -/
def tableCheck (s : State) : Option (Cause × Nat) := check s.ctv .notready 0

/-- The register holds a field element (R191). -/
def fieldCheck (s : State) (r : Reg) : Option (Cause × Nat) := check (canonical (s.reg r)) .oof (0x8000 + r.val)

/-- `EM[0..n-1]` are field elements (R191). -/
def elementsCheck (s : State) (n : Nat) : Option (Cause × Nat) := (s.firstOutOfField n).map fun j => (.oof, j)

/-- The checks a command makes, in their order: the first that fails is the fault (R273, R274). -/
def checksOf (i : Instr) (s : State) : List (Option (Cause × Nat)) :=
  match i with
  | .fadd _ ra rb | .fmul _ ra rb | .feq ra rb => [fieldCheck s ra, fieldCheck s rb]
  | .fsqr _ ra => [fieldCheck s ra]
  | .genc => [check (decide ¬ (s.nrounds.toNat = 0 ∨ s.nrounds.toNat > Config.nrMax)) .badcfg 1,
      check (decide ¬ (s.seedlen.toNat > Config.smDepth)) .badcfg 2]
  | .rdc imm => [tableCheck s, check (decide (imm < s.ctn.toNat)) .badarg imm]
  | .perm _ ra rb => [tableCheck s, fieldCheck s ra, fieldCheck s rb]
  | .hashk _ ra n => [tableCheck s, check (decide (n ≤ Config.emDepth)) .badarg n, fieldCheck s ra, elementsCheck s n]
  | .hashz _ n => [tableCheck s, check (decide (n ≤ Config.emDepth)) .badarg n, elementsCheck s n]
  | .hashb _ _ => [tableCheck s]
  | .wre imm | .rde imm | .lde _ imm | .ste _ imm => [check (decide (imm < Config.emDepth)) .badarg imm]
  | .wrb imm | .rdb imm => [check (decide (imm < Config.bmDepth)) .badarg imm]
  | .wrs imm | .rds imm => [check (decide (imm < Config.smDepth)) .badarg imm]
  | .csrr imm => [check (csrOf imm).isSome .badcsr imm]
  | .csrw imm => [check (decide (imm = 2 ∨ imm = 3 ∨ imm = 4)) .badcsr imm]
  | .fred _ _ | .pack _ | .ldw _ | .rdw _ | .clre => []

/-- `o` is what a command with these checks answers from `s`: the fault of the first check that fails, or success. -/
inductive Checked (s : State) : List (Option (Cause × Nat)) → Outcome → Prop
  | success (u : State) (v : Word) : Checked s [] (respond u v)
  | failed (c : Cause) (n : Nat) (l : List (Option (Cause × Nat))) : Checked s (some (c, n) :: l) (raise s c n)
  | passed {l : List (Option (Cause × Nat))} {o : Outcome} (h : Checked s l o) : Checked s (none :: l) o

/-- Which fault is taken, if any, depends on the checks alone. -/
theorem Checked.respond_or_raise {l : List (Option (Cause × Nat))} {o : Outcome} (h : Checked s l o) :
    (∃ u v, o = respond u v) ∨ ∃ c n, o = raise s c n ∧ ∀ s' o', Checked s' l o' → o' = raise s' c n := by
  induction h with
  | success u v => exact .inl ⟨u, v, rfl⟩
  | failed c n l => exact .inr ⟨c, n, rfl, fun _ _ h' => by cases h'; rfl⟩
  | passed _ ih =>
    rcases ih with hsuccess | ⟨c, n, ho, hsame⟩
    · exact .inl hsuccess
    · exact .inr ⟨c, n, ho, fun s' o' h' => by cases h' with | passed h' => exact hsame s' o' h'⟩

section
variable {l : List (Option (Cause × Nat))}

theorem checked_ite {legal : Bool} {c : Cause} {n : Nat} {o : Outcome} (h : Checked s l o) :
    Checked s (check legal c n :: l) (if legal then o else raise s c n) := by
  cases legal with
  | true => exact .passed h
  | false => exact .failed c n l

/-- The same for a test of the illegal case. -/
theorem checked_ite_raise {p : Prop} [Decidable p] {c : Cause} {n : Nat} {o : Outcome} (h : Checked s l o) :
    Checked s (check (decide ¬ p) c n :: l) (if p then raise s c n else o) := by
  by_cases hp : p
  · rw [decide_eq_false (not_not.mpr hp), if_pos hp]; exact .failed c n l
  · rw [decide_eq_true hp, if_neg hp]; exact .passed h

theorem checked_withTable {k : List Nat → Outcome} (h : ∀ c, Checked s l (k c)) :
    Checked s (tableCheck s :: l) (withTable s k) := checked_ite (h _)

theorem checked_withField {r : Reg} {k : Nat → Outcome} (h : ∀ v, Checked s l (k v)) :
    Checked s (fieldCheck s r :: l) (withField s r k) := checked_ite (h _)

theorem checked_withArg {imm : Nat} {legal : Bool} {k : Outcome} (h : Checked s l k) :
    Checked s (check legal .badarg imm :: l) (withArg s imm legal k) := checked_ite h

theorem checked_withElements {n : Nat} {k : List Nat → Outcome} (h : ∀ e, Checked s l (k e)) :
    Checked s (elementsCheck s n :: l) (withElements s n k) := by
  unfold elementsCheck withElements
  cases s.firstOutOfField n with
  | none => exact .passed (h _)
  | some j => exact .failed .oof j l

end

theorem checked_genc (s : State) : Checked s (checksOf .genc s) (exec .genc s) :=
  checked_ite_raise (checked_ite_raise (.success _ _))

theorem checked_csrr (imm : Nat) (s : State) : Checked s (checksOf (.csrr imm) s) (exec (.csrr imm) s) := by
  rw [checksOf]
  cases hc : csrOf imm with
  | none => rw [exec_csrr_of_none hc]; exact .failed .badcsr imm []
  | some c => rw [exec_csrr_of_some hc]; exact .passed (.success _ _)

theorem checked_csrw (imm : Nat) (s : State) : Checked s (checksOf (.csrw imm) s) (exec (.csrw imm) s) := by
  by_cases hw : imm = 2 ∨ imm = 3 ∨ imm = 4
  · rcases hw with rfl | rfl | rfl <;> exact .passed (.success _ _)
  · rw [checksOf, decide_eq_false hw]
    obtain ⟨h2, h3, h4⟩ : imm ≠ 2 ∧ imm ≠ 3 ∧ imm ≠ 4 := by omega
    rw [exec_csrw_of_none (writeCsr_of_not_writable _ h2 h3 h4)]
    exact .failed .badcsr imm []

/-- Every command answers as its checks say. -/
theorem exec_checked (i : Instr) (s : State) : Checked s (checksOf i s) (exec i s) := by
  cases i with
  | fadd | fmul | feq => exact checked_withField fun _ => checked_withField fun _ => .success _ _
  | fsqr => exact checked_withField fun _ => .success _ _
  | genc => exact checked_genc s
  | rdc => exact checked_withTable fun _ => checked_withArg (.success _ _)
  | perm =>
    rw [exec_perm]
    exact checked_withTable fun _ => checked_withField fun _ => checked_withField fun _ => .success _ _
  | hashk =>
    rw [exec_hashk]
    exact checked_withTable fun _ => checked_withArg (checked_withField fun _ => checked_withElements fun _ => .success _ _)
  | hashz =>
    rw [exec_hashz]
    exact checked_withTable fun _ => checked_withArg (checked_withElements fun _ => .success _ _)
  | hashb =>
    rw [exec_hashb]
    exact checked_withTable fun _ => .success _ _
  | wre | rde | wrb | rdb | wrs | rds | lde | ste => exact checked_withArg (.success _ _)
  | csrr imm => exact checked_csrr imm s
  | csrw imm => exact checked_csrw imm s
  | fred | pack | ldw | rdw | clre => exact .success _ _

/-! ## A faulted command again -/

/-- No check reads the fault record or the port, which are all that a fault writes. -/
theorem checksOf_after_takeFault (i : Instr) (s : State) (c : Cause) (n : Nat) (p : Port) :
    checksOf i { s.takeFault c n with port := p } = checksOf i s := by
  cases i <;> rfl

/-- The bit of a cause is set once: the same fault taken again, whatever the port held, gives the same state. -/
theorem takeFault_takeFault (s : State) (c : Cause) (n : Nat) (p : Port) :
    { s.takeFault c n with port := p }.takeFault c n = s.takeFault c n := by
  simp only [State.takeFault, BitVec.or_assoc, BitVec.or_self]

/-- Settles O10: the checks come out as before, so the first that fails is the same, and its fault adds nothing to the record. -/
theorem reissuedFaultRepeats : Obligations.ReissuedFaultRepeats := by
  intro i s t st v h ha hst
  rcases (exec_checked i s).respond_or_raise with ⟨u, w, ho⟩ | ⟨c, n, ho, hsame⟩
  · obtain rfl := (respond_next_iff u w t).mp (ho.symm.trans h)
    exact absurd (status_eq_zero_of_answered_answer ha) hst
  · obtain rfl := (raise_next_iff s c n t).mp (ho.symm.trans h)
    have hagain := exec_checked i { s.takeFault c n with port := s.port }
    rw [checksOf_after_takeFault] at hagain
    exact (hsame _ _ hagain).trans (congrArg Host.Outcome.next (takeFault_takeFault s c n s.port))

end Sys2Proof.Laws
end

section
/-! PROOF. The interrupt output (spec 60_exceptions.md R286, R287): its level, and that the enable EIE commutes with every command
that does not reach it by its number. -/

namespace Sys2Proof.Laws

open Sys2Proof.Machine

/-! ## The level -/

theorem irq_eq_true_iff (s : State) : s.irq = true ↔ s.eie = true ∧ s.esticky ≠ 0 := by
  rw [State.irq, State.err, Bool.and_eq_true, decide_eq_true_eq]

/-! ## Another error-interrupt enable -/

/-- The state with `b` in place of EIE. -/
def withEie (b : Bool) (s : State) : State := { s with eie := b }

theorem withEie_commutesWithFaults (b : Bool) : CommutesWithFaults (withEie b) := fun _ _ _ => rfl

theorem execGenc_withEie (b : Bool) (s : State) : execGenc (withEie b s) = mapNext (withEie b) (execGenc s) := by
  unfold execGenc
  rw [apply_ite (mapNext (withEie b)), apply_ite (mapNext (withEie b))]
  rfl

/-- A command that does not name EIE by its number does the same with either value of it. -/
theorem exec_withEie {i : Instr} (hi : i.isCsrAccess = false) (b : Bool) (s : State) :
    exec i (withEie b s) = mapNext (withEie b) (exec i s) := by
  have hf := withEie_commutesWithFaults b
  cases i with
  | fadd | fmul | feq => exact withField_mapNext hf rfl fun _ => withField_mapNext hf rfl fun _ => by rfl
  | fsqr => rw [exec_fsqr, exec_fsqr]; exact withField_mapNext hf rfl fun _ => rfl
  | genc => exact execGenc_withEie b s
  | rdc => rw [exec_rdc, exec_rdc]; exact withTable_mapNext hf rfl (fun _ => rfl) fun _ => withArg_mapNext hf fun _ => rfl
  | perm =>
    rw [exec_perm, exec_perm]
    exact withTable_mapNext hf rfl (fun _ => rfl) fun _ => withField_mapNext hf rfl fun _ => withField_mapNext hf rfl fun _ => rfl
  | hashk =>
    rw [exec_hashk, exec_hashk]
    exact withTable_mapNext hf rfl (fun _ => rfl) fun _ => withArg_mapNext hf fun _ => withField_mapNext hf rfl fun _ =>
      withElements_mapNext hf (fun _ => rfl) fun _ => rfl
  | hashz =>
    rw [exec_hashz, exec_hashz]
    exact withTable_mapNext hf rfl (fun _ => rfl) fun _ => withArg_mapNext hf fun _ =>
      withElements_mapNext hf (fun _ => rfl) fun _ => rfl
  | hashb => rw [exec_hashb, exec_hashb]; exact withTable_mapNext hf rfl (fun _ => rfl) fun _ => rfl
  | wre | rde | wrb | rdb | wrs | rds | lde | ste => exact withArg_mapNext hf fun _ => by rfl
  | csrr | csrw => cases hi
  | fred | pack | ldw | rdw | clre => rfl

/-- Settles O16: the level is computed from the two fields, CLRE and reset clear ESTICKY, and no check or effect reads EIE. -/
theorem irqIsALevelThatActsOnNothing : Obligations.IrqIsALevelThatActsOnNothing := by
  refine ⟨irq_eq_true_iff, fun s t h => ?_, fun _ => rfl, fun i s b hi => exec_withEie hi b s⟩
  obtain rfl := (respond_next_iff _ _ t).mp ((exec_clre s).symm.trans h)
  exact irq_clearFaults s

end Sys2Proof.Laws
end

section
/-! PROOF. What a command does with the constants table does not depend on the configuration of the next one (spec
70_reset_and_hazards.md R315, 10_state.md R34): a change that no command using the table sees commutes with each of them. -/

namespace Sys2Proof.Laws

open Sys2Proof.Machine

/-! ## Changes that the commands using the table do not see -/

/-- `f` changes only what the commands that use the table neither read nor write. -/
structure UnseenByTableUse (f : State → State) : Prop where
  takeFault : CommutesWithFaults f
  reg : ∀ s r, (f s).reg r = s.reg r
  readEm : ∀ s a, (f s).readEm a = s.readEm a
  bytes : ∀ s len, (f s).bytes len = s.bytes len
  ctv : ∀ s, (f s).ctv = s.ctv
  ctn : ∀ s, (f s).ctn = s.ctn
  readCt : ∀ s j, (f s).readCt j = s.readCt j
  setReg : ∀ s rd v, (f s).setReg rd v = f (s.setReg rd v)
  answer : ∀ s c v, (f s).answer c v = f (s.answer c v)

section

variable {f : State → State} (hf : UnseenByTableUse f) (s : State)

include hf

theorem UnseenByTableUse.table_eq : (f s).table = s.table := by
  simp only [State.table, hf.ctn, hf.readCt]

theorem UnseenByTableUse.respond_mapNext (v : Word) : respond (f s) v = mapNext f (respond s v) :=
  congrArg Host.Outcome.next (hf.answer s 0 v)

theorem UnseenByTableUse.respond_setReg_mapNext (rd : Reg) (v : Word) :
    respond ((f s).setReg rd v) 0 = mapNext f (respond (s.setReg rd v) 0) := by
  rw [hf.setReg, hf.respond_mapNext]

theorem UnseenByTableUse.hashUnder_mapNext (rd : Reg) (n key : Nat) :
    hashUnder (f s) rd n key = mapNext f (hashUnder s rd n key) := by
  unfold hashUnder
  rw [hf.table_eq]
  exact withElements_mapNext hf.takeFault (hf.readEm s) fun _ => hf.respond_setReg_mapNext s rd _

/-- Table, index, registers and elements are checked and read as before, and the result goes to the same register or response. -/
theorem UnseenByTableUse.exec_mapNext {i : Instr} (hi : i.usesTable = true) : exec i (f s) = mapNext f (exec i s) := by
  have htable {k k'} := withTable_mapNext (k := k) (k' := k') hf.takeFault (hf.ctv s) fun _ => hf.table_eq s
  have hfield {r k k'} := withField_mapNext (k := k) (k' := k') hf.takeFault (hf.reg s r)
  cases i with
  | rdc imm =>
    rw [exec_rdc, exec_rdc, hf.ctn, hf.readCt]
    exact htable fun _ => withArg_mapNext hf.takeFault fun _ => hf.respond_mapNext s _
  | perm rd =>
    rw [exec_perm, exec_perm]
    exact htable fun _ => hfield fun _ => hfield fun _ => hf.respond_setReg_mapNext s rd _
  | hashk rd _ n =>
    rw [exec_hashk, exec_hashk]
    exact htable fun _ => withArg_mapNext hf.takeFault fun _ => hfield fun _ => hf.hashUnder_mapNext s rd n _
  | hashz rd n =>
    rw [exec_hashz, exec_hashz]
    exact htable fun _ => withArg_mapNext hf.takeFault fun _ => hf.hashUnder_mapNext s rd n 0
  | hashb rd =>
    rw [exec_hashb, exec_hashb, hf.bytes]
    exact htable fun _ => hf.respond_setReg_mapNext s rd _
  | fadd | fmul | fsqr | fred | feq | genc | pack | ldw | rdw | wre | rde | wrb | rdb | wrs | rds | lde | ste | csrr | csrw
  | clre => cases hi

end

/-! ## Another configuration of the generator -/

/-- The state with other values of what GENC builds a table from: NROUNDS, SEEDLEN and SM. -/
def withGeneratorInput (n : BitVec 16) (l : BitVec 8) (m : Mem 8) (s : State) : State :=
  { s with nrounds := n, seedlen := l, sm := m }

theorem withGeneratorInput_unseen (n : BitVec 16) (l : BitVec 8) (m : Mem 8) : UnseenByTableUse (withGeneratorInput n l m) where
  takeFault _ _ _ := rfl
  reg _ _ := rfl
  readEm _ _ := rfl
  bytes _ _ := rfl
  ctv _ := rfl
  ctn _ := rfl
  readCt _ _ := rfl
  setReg _ _ _ := rfl
  answer _ _ _ := rfl

/-- Settles O23: the generator's input is none of what the commands that use the table read or write. -/
theorem tableUseIgnoresTheConfiguration : Obligations.TableUseIgnoresTheConfiguration :=
  fun _ s n l m hi => (withGeneratorInput_unseen n l m).exec_mapNext s hi

end Sys2Proof.Laws
end

section
/-! PROOF. The edges of the port (spec 70_reset_and_hazards.md R310, R312, R317, R318, R321): reset, acceptance, idleness, transfer and
holding of a response, and the one refusal. -/

namespace Sys2Proof.Laws

open Sys2Proof.Machine

variable {s : State} {c : Command} {r : Response}

/-! ## What a step does at each edge -/

theorem step_of_reset {img : Image} (h : s.pins.rst = some img) : step s = .next (s.resetEdge img) := by
  rw [step, h]

theorem step_of_idle (hrst : s.pins.rst = none) (hport : s.port = .idle) : step s = s.acceptEdge := by
  rw [step, hrst, hport]

theorem step_of_inFlight (hrst : s.pins.rst = none) (hport : s.port = .inFlight c) : step s = execWord c.word s.busyEdge :=
  (stepRunsTheDecodedCommand s c hport hrst).1

theorem step_of_answering (hrst : s.pins.rst = none) (hport : s.port = .answering r) : step s = .next (s.responseEdge r) := by
  rw [step, hrst, hport]

theorem acceptEdge_of_none (h : s.pins.cmd = none) : s.acceptEdge = .next { s.nextEdge with offer := .nothing } := by
  rw [State.acceptEdge, h]

theorem acceptEdge_of_admits (h : s.pins.cmd = some c) (ha : s.offer.admits c = true) :
    s.acceptEdge = .next { s.nextEdge with port := .inFlight c, offer := .nothing } := by
  rw [State.acceptEdge, h]; exact if_pos ha

theorem acceptEdge_of_not_admits (h : s.pins.cmd = some c) (ha : s.offer.admits c = false) :
    s.acceptEdge = .refused .handshakeBreach := by
  rw [State.acceptEdge, h]; exact if_neg (ne_true_of_eq_false ha)

theorem responseEdge_of_ready (h : s.pins.rspReady = true) :
    s.responseEdge r = { s.busyEdge with port := .idle, taken := s.taken ++ [r] } := if_pos h

theorem responseEdge_of_not_ready (h : s.pins.rspReady = false) : s.responseEdge r = s.busyEdge :=
  if_neg (ne_true_of_eq_false h)

/-! ## The host's waiting command -/

theorem afterBusy_none (o : Offer) : o.afterBusy none = .nothing := by cases o <;> rfl

theorem afterBusy_held_same (c : Command) : (Offer.held c).afterBusy (some c) = .held c := if_pos rfl

theorem afterBusy_held_other {c c' : Command} (h : c' ≠ c) : (Offer.held c).afterBusy (some c') = .changed := if_neg h

theorem admits_held_iff (c c' : Command) : (Offer.held c').admits c = true ↔ c = c' := decide_eq_true_iff

theorem busy_eq_false_iff (s : State) : s.busy = false ↔ s.port = .idle := by
  unfold State.busy
  cases s.port <;> simp

/-! ## The statements -/

/-- Settles O13: reset comes before the port is looked at. -/
theorem resetEdgeAbandonsTheCommand : Obligations.ResetEdgeAbandonsTheCommand :=
  fun _ _ h => ⟨_, step_of_reset h, rfl, rfl⟩

/-- Settles O14, edge by edge; the rest is the host's waiting command. -/
theorem handshakeEdges : Obligations.HandshakeEdges := by
  refine ⟨fun s hrst => ⟨fun c hp hc ha => ?accepted, fun hp hc => ?stays, fun r hp hr => ?transferred, fun r hp hr => ?held,
      rfl, busy_eq_false_iff s⟩,
    fun o c => ⟨afterBusy_none o, rfl, afterBusy_held_same c, fun _ => afterBusy_held_other, rfl⟩,
    fun c => ⟨rfl, admits_held_iff c, rfl⟩⟩
  case accepted => exact (step_of_idle hrst hp).trans (acceptEdge_of_admits hc ha)
  case stays => exact (step_of_idle hrst hp).trans (acceptEdge_of_none hc)
  case transferred => exact (step_of_answering hrst hp).trans (congrArg _ (responseEdge_of_ready hr))
  case held => exact (step_of_answering hrst hp).trans (congrArg _ (responseEdge_of_not_ready hr))

/-- An accepted word, a command or not, is answered, and its execution leaves the host's side. -/
theorem execWord_answers (w : BitVec 32) (s : State) : ∃ t r, execWord w s = .next t ∧ t.port = .answering r ∧
    t.script = s.script ∧ t.offer = s.offer ∧ t.taken = s.taken := by
  cases hd : decode w with
  | error e => exact ⟨_, _, execWord_of_error hd s, rfl, rfl, rfl, rfl⟩
  | ok i =>
    obtain ⟨st, v, t, hnext, hport⟩ : ∃ st v t, exec i s = .next t ∧ t.answered st v := by
      obtain ⟨t, hnext, ⟨c, n, rfl, -⟩ | ⟨u, v, rfl, -⟩⟩ := exec_outcome i s
      · exact ⟨_, _, _, hnext, rfl⟩
      · exact ⟨_, _, _, hnext, rfl⟩
    obtain ⟨-, -, -, hhost⟩ := onlyCsrwChangesTheConfiguration i s t hnext
    exact ⟨t, _, (execWord_of_ok hd s).trans hnext, hport, hhost⟩

/-- Settles O11: the only edge that does not go on is the acceptance of a command that the offer does not admit. -/
theorem stepStopsOnlyOnHandshakeBreach : Obligations.StepStopsOnlyOnHandshakeBreach := by
  intro s
  unfold State.handshakeKept
  cases hrst : s.pins.rst with
  | some img => exact ⟨fun _ => ⟨_, step_of_reset hrst⟩, nofun⟩
  | none =>
    cases hport : s.port with
    | idle =>
      rw [step_of_idle hrst hport]
      cases hcmd : s.pins.cmd with
      | none => exact ⟨fun _ => ⟨_, acceptEdge_of_none hcmd⟩, nofun⟩
      | some c => exact ⟨fun ha => ⟨_, acceptEdge_of_admits hcmd ha⟩, acceptEdge_of_not_admits hcmd⟩
    | inFlight c =>
      rw [step_of_inFlight hrst hport]
      obtain ⟨t, -, hnext, -⟩ := execWord_answers c.word s.busyEdge
      exact ⟨fun _ => ⟨t, hnext⟩, nofun⟩
    | answering r => exact ⟨fun _ => ⟨_, step_of_answering hrst hport⟩, nofun⟩

end Sys2Proof.Laws
end

section
/-! PROOF. The three edges of an exchange are one transaction (spec 70_reset_and_hazards.md R318, 93_implementation_defined.md U3): a
command does the same whatever the host does at later edges, so its effect is that at the state after the exchange. -/

namespace Sys2Proof.Laws

open Sys2Proof.Machine

/-! ## Another script -/

/-- The state with `x` in place of the pins of the coming edges. -/
def withScript (x : List HostPins) (s : State) : State := { s with script := x }

theorem withScript_unseen (x : List HostPins) : UnseenByTableUse (withScript x) where
  takeFault _ _ _ := rfl
  reg _ _ := rfl
  readEm _ _ := rfl
  bytes _ _ := rfl
  ctv _ := rfl
  ctn _ := rfl
  readCt _ _ := rfl
  setReg _ _ _ := rfl
  answer _ _ _ := rfl

section

variable (x : List HostPins) (s : State)

theorem execGenc_withScript : execGenc (withScript x s) = mapNext (withScript x) (execGenc s) := by
  unfold execGenc
  rw [apply_ite (mapNext (withScript x)), apply_ite (mapNext (withScript x))]
  rfl

theorem execCsrr_withScript (imm : Nat) : execCsrr imm (withScript x s) = mapNext (withScript x) (execCsrr imm s) := by
  unfold execCsrr
  cases csrOf imm with
  | none => rfl
  | some c => cases c <;> rfl

theorem execCsrw_withScript (imm : Nat) : execCsrw imm (withScript x s) = mapNext (withScript x) (execCsrw imm s) := by
  unfold execCsrw
  cases csrOf imm with
  | none => rfl
  | some c => cases c <;> rfl

/-- No command reads or writes the pins of the coming edges. -/
theorem exec_withScript (i : Instr) : exec i (withScript x s) = mapNext (withScript x) (exec i s) := by
  have hf := (withScript_unseen x).takeFault
  cases i with
  | rdc | perm | hashk | hashz | hashb => exact (withScript_unseen x).exec_mapNext s rfl
  | fadd | fmul | feq => exact withField_mapNext hf rfl fun _ => withField_mapNext hf rfl fun _ => by rfl
  | fsqr => rw [exec_fsqr, exec_fsqr]; exact withField_mapNext hf rfl fun _ => rfl
  | genc => exact execGenc_withScript x s
  | wre | rde | wrb | rdb | wrs | rds | lde | ste => exact withArg_mapNext hf fun _ => by rfl
  | csrr imm => exact execCsrr_withScript x s imm
  | csrw imm => exact execCsrw_withScript x s imm
  | fred | pack | ldw | rdw | clre => rfl

theorem execWord_withScript (w : BitVec 32) : execWord w (withScript x s) = mapNext (withScript x) (execWord w s) := by
  cases hd : decode w with
  | ok i => rw [execWord_of_ok hd, execWord_of_ok hd]; exact exec_withScript x s i
  | error e => rw [execWord_of_error hd, execWord_of_error hd]; rfl

end

/-! ## The exchange -/

theorem run_succ_of_next {s t : State} (h : step s = .next t) (k : Nat) :
    Host.Core.run core (k + 1) s = Host.Core.run core k t := by
  have hcore : core.step s = .next t := h
  simp only [Host.Core.run, hcore]

theorem run_three {s s₁ s₂ t : State} (h₁ : step s = .next s₁) (h₂ : step s₁ = .next s₂) (h₃ : step s₂ = .next t) :
    Host.Core.run core 3 s = .next t :=
  calc Host.Core.run core 3 s
    _ = Host.Core.run core 2 s₁ := run_succ_of_next h₁ 2
    _ = Host.Core.run core 1 s₂ := run_succ_of_next h₂ 1
    _ = Host.Core.run core 0 t := run_succ_of_next h₃ 0

/-- The block with `c` accepted from an idle state, the coming edges `x`. -/
def accepted (s : State) (c : Command) (x : List HostPins) : State :=
  { s with port := .inFlight c, offer := .nothing, script := x }

section

variable {s t : State} {c : Command} {r : Response} {x : List HostPins}

theorem step_present (hport : s.port = .idle) (ha : s.offer.admits c = true) (hs : s.script = .present c :: x) :
    step s = .next (accepted s c x) := by
  have hpins : s.pins = .present c := by rw [State.pins, hs]; rfl
  rw [step_of_idle (by rw [hpins]; rfl) hport, acceptEdge_of_admits (by rw [hpins]; rfl) ha, State.nextEdge, hs]
  rfl

/-- The host's quiet edge executes the command; what it does is what it does with any other coming edges. -/
theorem step_wait (y : List HostPins) (h : execWord c.word (accepted s c y) = .next t) :
    step (accepted s c (.quiet :: x)) = .next (withScript x t) :=
  calc step (accepted s c (.quiet :: x))
    _ = execWord c.word (withScript x (accepted s c y)) := step_of_inFlight rfl rfl
    _ = mapNext (withScript x) (execWord c.word (accepted s c y)) := execWord_withScript x _ c.word
    _ = .next (withScript x t) := by rw [h]; rfl

theorem step_take (hport : t.port = .answering r) (hoffer : t.offer = .nothing) :
    step (withScript (.ready :: t.script) t) = .next { t with port := .idle, taken := t.taken ++ [r] } := by
  have hbusy : (withScript (.ready :: t.script) t).busyEdge = t := by
    show { t with offer := t.offer.afterBusy none } = t
    rw [afterBusy_none, ← hoffer]
  calc step (withScript (.ready :: t.script) t)
    _ = .next ((withScript (.ready :: t.script) t).responseEdge r) := step_of_answering rfl hport
    _ = .next { t with port := .idle, taken := t.taken ++ [r] } := by rw [responseEdge_of_ready rfl, hbusy]; rfl

end

/-- Settles O15: the three edges follow one another, and the execution leaves the host's side as the acceptance left it. -/
theorem exchangeIsOneTransaction : Obligations.ExchangeIsOneTransaction := by
  intro s c rest hport ha hscript
  obtain ⟨t, r, hexec, htport, rfl, hoffer, htaken⟩ :
      ∃ t r, execWord c.word (accepted s c rest) = .next t ∧ t.port = .answering r ∧
        t.script = rest ∧ t.offer = .nothing ∧ t.taken = s.taken := execWord_answers c.word (accepted s c rest)
  refine ⟨t, r, hexec, htport, ?_⟩
  rw [← htaken]
  exact run_three (step_present hport ha hscript) (step_wait t.script hexec) (step_take htport hoffer)

end Sys2Proof.Laws
end
